-- ==== Sys2Proof/Word.lean ====
section
/-! DEFINITION. The data items of ESPJS-CORE: bytes, byte sequences and 32-bit unsigned integers
(spec/00_scope.md R6-R8). -/

namespace Sys2Proof

/-- BYTE_WIDTH = 8: every data item on the channel is a byte (00_scope.md R6). -/
abbrev Byte := BitVec 8

/-- U32: a 32-bit unsigned integer (00_scope.md R6, R8). -/
abbrev U32 := BitVec 32

/-- A byte sequence. Index 0 is the first byte to cross the channel (00_scope.md R7, 20_memory.md R45). -/
abbrev Bytes := List Byte

end Sys2Proof
end

