-- ==== Sys2Proof/Config.lean ====
section
/-! DEFINITION. What surrounds CORE: the implementation parameters (spec/00_scope.md R6), the
alphabet of the four agents' moves (R3, R10, R13), and the free values the spec leaves open. -/

namespace Sys2Proof

/-- ERRMODE: how a failed Commit ends a sequence (10_state.md R29). -/
inductive ErrMode where
  | propagate  -- built-in strategies: ChannelError
  | wrap       -- a custom sequence: InvalidSequence
  deriving DecidableEq, Repr, Inhabited

/-- A ResetCommand, the tagged value of 30_encoding.md R66 (its tag numbers are labels no rule depends on). -/
inductive Command where
  | setDTR (v : Bool)
  | setRTS (v : Bool)
  | commit
  | wait (n : U32)
  deriving DecidableEq, Repr, Inhabited

/-- The parameter WRITE_WHEN_UNWRITABLE (00_scope.md R6, D17). -/
inductive Unwritable where
  | skipOk
  | error
  deriving DecidableEq, Repr, Inhabited

/-- The implementation parameters of 00_scope.md R6 that a model may take as an argument. They stand in
State and no step changes them, so a statement over every state covers every setting (log 11). -/
structure Params where
  /-- S_ARG_STRICT: a Commit token may have no tail (30_encoding.md R74). -/
  sArgStrict : Bool
  /-- WRITE_WHEN_UNWRITABLE (41_framed_reader.md R114). -/
  writeWhenUnwritable : Unwritable
  /-- BUF_CAP; `none` is unbounded (10_state.md R36). -/
  bufCap : Option Nat
  /-- SEQ_MAX_LEN; `none` is unbounded (30_encoding.md R83). -/
  seqMaxLen : Option Nat
  /-- FRAMING_RESET (10_state.md R25). -/
  framingReset : Bool
  /-- LINE_RESET_DTR (10_state.md R40). -/
  lineResetDtr : Bool
  /-- LINE_RESET_RTS (10_state.md R40). -/
  lineResetRts : Bool
  deriving DecidableEq, Repr, Inhabited

/-- The values of the table in 00_scope.md R6. -/
def Params.default : Params where
  sArgStrict := false
  writeWhenUnwritable := .skipOk
  bufCap := none
  seqMaxLen := none
  framingReset := true
  lineResetDtr := false
  lineResetRts := false

/-- CHANNEL's acknowledgement of an action (00_scope.md R10). -/
inductive Ack where
  | ok
  | err
  deriving DecidableEq, Repr, Inhabited

/-- What CHANNEL would answer now to CORE's three queries (00_scope.md R10): every value is admitted
(20_memory.md R58). -/
structure Answers where
  readable : Bool
  writable : Bool
  chunk : Option Bytes
  deriving DecidableEq, Repr, Inhabited

/-- One typed operand field of a host request (30_encoding.md R63). -/
inductive Operand where
  | u32 (v : U32)
  | bool (v : Bool)
  | bytes (b : Bytes)
  deriving DecidableEq, Repr, Inhabited

/-- A host request: an 8-bit opcode and typed operands (30_encoding.md R63). A typed field is a value, not a
byte string, so it has no byte order (20_memory.md R46, log 4). -/
structure Request where
  opcode : Byte
  operands : List Operand
  deriving DecidableEq, Repr, Inhabited

/-- One step of one agent (00_scope.md R3, R13). A schedule is a list of moves. -/
inductive Move where
  /-- HOST issues a request, and CORE takes its acceptance step (30_encoding.md R63). -/
  | request (r : Request)
  /-- CORE takes a step of the active operation (00_scope.md R13). -/
  | core
  /-- CLOCK: one tick of 1 ms (10_state.md R32). -/
  | tick
  /-- CHANNEL changes what it would answer to CORE's queries (20_memory.md R58). -/
  | channel (a : Answers)
  /-- CHANNEL acknowledges the action with this number (00_scope.md R10, log 8). -/
  | ack (action : Nat) (r : Ack)
  /-- Block reset (70_reset_and_hazards.md R185). -/
  | blockReset
  /-- A SLIP byte string is presented to the stand-alone codec (30_encoding.md R60, log 14). -/
  | present (b : Bytes)
  /-- The stand-alone codec takes the next SLIP token of its byte string (log 14). -/
  | codec
  deriving DecidableEq, Repr, Inhabited

/-! ### Free values: constants without a body, so that no proof can see one (log 6, 9) -/

/-- The move taken when the schedule is empty (log 6). -/
opaque Config.freeMove : Nat → Move

/-- What OP holds in IDLE and after block reset: "any value" (93_implementation_defined.md U20, log 9). -/
opaque Config.freeOp : Nat → Byte
/-- What TO holds in IDLE and after block reset (U20, log 9). -/
opaque Config.freeTo : Nat → U32
/-- What MIN holds in IDLE and after block reset (U20, log 9). -/
opaque Config.freeMin : Nat → U32
/-- What ERRMODE holds in IDLE and after block reset (U20, log 9). -/
opaque Config.freeErrmode : Nat → ErrMode
/-- What WAIT_N holds in IDLE and after block reset (U20, log 9). -/
opaque Config.freeWaitN : Nat → U32

end Sys2Proof
end

