-- ==== Sys2Proof/Syntax.lean ====
section
/-! DEFINITION. The instructions: one constructor for every mnemonic of spec/opcode_table.json. The table's seven
RESERVED rows are one mnemonic and one rule (30_encoding.md R76): the constructor `reserved` carries the opcode. -/

namespace Sys2Proof

/-- The instructions of ESPJS-CORE, in three encoding classes (30_encoding.md R60). -/
inductive Instr where
  -- host requests (30_encoding.md R65)
  | encodeFrame (payload : Bytes)
  | decodeFrame (buffer : Bytes)
  | read (timeoutMs minBytes : U32)
  | readRaw (timeoutMs : U32)
  | writeFrame (payload : Bytes)
  | classicReset (delayMs : U32)
  | usbJtagSerialReset
  | hardReset (usingUsbOtg : Bool)
  | customReset (sequence : Bytes)
  | validateCustomResetSequence (sequence : Bytes)
  | setFraming (enable : Bool)
  | notifyConnect
  | reserved (opcode : Byte)
  -- DSL tokens, the ResetCommands (30_encoding.md R66-R75)
  | setDTR (v : Bool)
  | setRTS (v : Bool)
  | commit
  | wait (n : U32)
  -- SLIP tokens (30_encoding.md R61, R62)
  | slipEnd
  | escEnd
  | escEsc
  | escLone
  | literal (x : Byte)
  deriving DecidableEq, Repr

end Sys2Proof
end

