-- ==== Sys2Proof/WellFormed.lean ====
section
/-! DEFINITION. Which instructions the spec's encodings can spell. -/

namespace Sys2Proof

/-- A reserved host opcode: 0x00 or 0x0D-0xFF (30_encoding.md R65, R76). -/
abbrev reservedOpcode (opcode : Byte) : Bool := opcode == 0x00 || (0x0D : Byte) ≤ opcode

/-- The checks on an instruction's operands. A u32, bool or byte-sequence operand of a host request is
legal at every value of its type (30_encoding.md R63, R82, R83); the others are limited by these rules. -/
def Instr.wf : Instr → Bool
  | .reserved opcode => reservedOpcode opcode                        -- R76
  | .wait n => n != 0                                                -- R66, R73
  | .literal x => x != 0xC0 && x != 0xDB                             -- R62
  | .encodeFrame _ | .decodeFrame _ | .read _ _ | .readRaw _ | .writeFrame _ | .classicReset _
  | .usbJtagSerialReset | .hardReset _ | .customReset _ | .validateCustomResetSequence _
  | .setFraming _ | .notifyConnect | .setDTR _ | .setRTS _ | .commit
  | .slipEnd | .escEnd | .escEsc | .escLone => true

/-- A ResetCommand's check: a Wait's duration is greater than 0 (30_encoding.md R66). -/
def Command.wf : Command → Bool
  | .wait n => n != 0
  | .setDTR _ | .setRTS _ | .commit => true

end Sys2Proof
end

