-- ==== Sys2Proof/Decode.lean ====
section
/-! DEFINITION. The three decoders of ESPJS-CORE and the encoder (spec/30_encoding.md). Every input has a verdict
(R60); a rejection has a name. -/

namespace Sys2Proof

/-! ### Bytes with a role -/

/-- END: marks both ends of a frame (30_encoding.md R61). -/
abbrev byteEnd : Byte := 0xC0
/-- ESC: opens an escape pair (30_encoding.md R62). -/
abbrev byteEsc : Byte := 0xDB
/-- ESC_END: `ESC ESC_END` stands for 0xC0 (30_encoding.md R62). -/
abbrev byteEscEnd : Byte := 0xDC
/-- ESC_ESC: `ESC ESC_ESC` stands for 0xDB (30_encoding.md R62). -/
abbrev byteEscEsc : Byte := 0xDD

/-- The characters of the custom-reset language (30_encoding.md R67). -/
abbrev charD : Byte := 0x44
abbrev charR : Byte := 0x52
abbrev charW : Byte := 0x57
abbrev charS : Byte := 0x53
abbrev charBar : Byte := 0x7C
abbrev char0 : Byte := 0x30
abbrev char1 : Byte := 0x31
abbrev char9 : Byte := 0x39

/-! ### Instruction codes and rejections -/

/-- An instruction's code, in one of the three encoding classes of 30_encoding.md R60. -/
inductive Code where
  | request (r : Request)   -- a host request (R63)
  | token (t : Bytes)       -- one token of a custom-reset string (R69)
  | slip (b : Bytes)        -- the bytes of one SLIP token (R61, R62)
  deriving DecidableEq, Repr

/-- Why a code is rejected. -/
inductive DecodeError where
  /-- A request whose operands are not those its opcode is typed with (30_encoding.md R63). -/
  | operandTypes (opcode : Byte)
  /-- An empty DSL token (R69). -/
  | emptyToken
  /-- A DSL token whose first byte is no command code (R75). -/
  | unknownCommand (b : Byte)
  /-- A `D` or `R` token whose argument is not exactly `0` or `1` (R70). -/
  | badBit
  /-- A `W` token without digits, or with a byte that is no digit (R71). -/
  | badDigits
  /-- A `W` token whose value is not in 1..2^32-1 (R73). -/
  | durationRange
  /-- An `S` token with a tail when S_ARG_STRICT = true (R74). -/
  | strictTail
  /-- No byte, so no SLIP token. -/
  | noSlipToken
  /-- Bytes beyond one SLIP token. -/
  | trailingBytes
  deriving DecidableEq, Repr

/-! ### Host requests -/

/-- The operation an opcode that is not reserved names, when the operands are of the types it has (30_encoding.md
R65); grouped by those types. -/
def operationOf (opcode : Byte) (operands : List Operand) : Option Instr :=
  match operands with
  | [] =>
    if opcode = 0x07 then some .usbJtagSerialReset
    else if opcode = 0x0C then some .notifyConnect
    else none
  | [.bytes b] =>
    if opcode = 0x01 then some (.encodeFrame b)
    else if opcode = 0x02 then some (.decodeFrame b)
    else if opcode = 0x05 then some (.writeFrame b)
    else if opcode = 0x09 then some (.customReset b)
    else if opcode = 0x0A then some (.validateCustomResetSequence b)
    else none
  | [.u32 v] =>
    if opcode = 0x04 then some (.readRaw v)
    else if opcode = 0x06 then some (.classicReset v)
    else none
  | [.bool v] =>
    if opcode = 0x08 then some (.hardReset v)
    else if opcode = 0x0B then some (.setFraming v)
    else none
  | [.u32 t, .u32 m] => if opcode = 0x03 then some (.read t m) else none
  | _ => none

/-- The decoder of host requests (30_encoding.md R63, R65). A reserved opcode spells no operation, whatever operands
stand beside it (R76). -/
def decodeRequest (r : Request) : Except DecodeError Instr :=
  if reservedOpcode r.opcode then .ok (.reserved r.opcode)
  else match operationOf r.opcode r.operands with
    | some i => .ok i
    | none => .error (.operandTypes r.opcode)

/-! ### The custom-reset language -/

/-- Whether a byte is one of `0` to `9` (30_encoding.md R67). -/
def isDigit (b : Byte) : Bool := char0 ≤ b && b ≤ char9

/-- The decimal value of a digit string, exact, most-significant digit first: the sum of
30_encoding.md R72. -/
def decimalValue : Bytes → Nat
  | [] => 0
  | d :: ds => (d.toNat - char0.toNat) * 10 ^ ds.length + decimalValue ds

/-- The argument of a `D` or `R` token: exactly one byte, `0` or `1` (30_encoding.md R70). -/
def decodeBit : Bytes → Except DecodeError Bool
  | [b] => if b = char0 then .ok false else if b = char1 then .ok true else .error .badBit
  | _ => .error .badBit

/-- The argument of a `W` token (30_encoding.md R71-R73). -/
def decodeDuration (ds : Bytes) : Except DecodeError U32 :=
  if ds.isEmpty || !ds.all isDigit then .error .badDigits
  else if 1 ≤ decimalValue ds ∧ decimalValue ds ≤ 2 ^ 32 - 1 then .ok (BitVec.ofNat 32 (decimalValue ds))
  else .error .durationRange

/-- The decoder of one DSL token (30_encoding.md R70, R71, R74, R75); `strict` is S_ARG_STRICT. -/
def decodeToken (strict : Bool) : Bytes → Except DecodeError Command
  | [] => .error .emptyToken
  | c :: arg =>
    if c = charD then (decodeBit arg).map .setDTR
    else if c = charR then (decodeBit arg).map .setRTS
    else if c = charW then (decodeDuration arg).map .wait
    else if c = charS then (if strict && !arg.isEmpty then .error .strictTail else .ok .commit)
    else .error (.unknownCommand c)

/-- The tokens of a string: it is cut at every byte 0x7C, and a token may be empty (30_encoding.md R69). -/
def splitBars : Bytes → List Bytes
  | [] => [[]]
  | b :: bs =>
    if b = charBar then [] :: splitBars bs
    else match splitBars bs with
      | t :: ts => (b :: t) :: ts
      | [] => [[b]]

/-- The commands of a list of tokens, or nothing when one of them is invalid. -/
def parseTokens (strict : Bool) : List Bytes → Option (List Command)
  | [] => some []
  | t :: ts =>
    match decodeToken strict t, parseTokens strict ts with
    | .ok c, some cs => some (c :: cs)
    | _, _ => none

/-- `parse` of 43_reset_sequencer.md R145. -/
def parse (strict : Bool) (s : Bytes) : Option (List Command) := parseTokens strict (splitBars s)

/-- `valid` of 43_reset_sequencer.md R146. -/
def valid (strict : Bool) (s : Bytes) : Bool := (parse strict s).isSome

/-- The instruction a ResetCommand is. -/
def Command.toInstr : Command → Instr
  | .setDTR v => .setDTR v
  | .setRTS v => .setRTS v
  | .commit => .commit
  | .wait n => .wait n

/-! ### SLIP tokens -/

/-- The first SLIP token of a byte string, and the bytes after it (30_encoding.md R62, R78;
40_slip_codec.md R89). A 0xDB that opens no escape pair stands alone. -/
def slipToken : Bytes → Option (Instr × Bytes)
  | [] => none
  | b :: rest =>
    if b = byteEnd then some (.slipEnd, rest)
    else if b = byteEsc then
      match rest with
      | c :: rest' =>
        if c = byteEscEnd then some (.escEnd, rest')
        else if c = byteEscEsc then some (.escEsc, rest')
        else some (.escLone, rest)
      | [] => some (.escLone, [])
    else some (.literal b, rest)

/-- The decoder of one SLIP token that is the whole byte string. -/
def decodeSlip (b : Bytes) : Except DecodeError Instr :=
  match slipToken b with
  | none => .error .noSlipToken
  | some (i, []) => .ok i
  | some (_, _ :: _) => .error .trailingBytes

/-! ### The decoder -/

/-- The decoder: each class by its own (30_encoding.md R60). -/
def decode (strict : Bool) : Code → Except DecodeError Instr
  | .request r => decodeRequest r
  | .token t => (decodeToken strict t).map Command.toInstr
  | .slip b => decodeSlip b

/-! ### The encoder -/

/-- The byte of a decimal digit (30_encoding.md R67). -/
def digitByte (d : Nat) : Byte := BitVec.ofNat 8 (char0.toNat + d)

/-- The decimal digits of `n` before `tail`, at most `fuel` of them. -/
def decimalDigits : Nat → Nat → Bytes → Bytes
  | 0, _, tail => tail
  | fuel + 1, n, tail =>
    if n < 10 then digitByte n :: tail
    else decimalDigits fuel (n / 10) (digitByte (n % 10) :: tail)

/-- A u32 in decimal with no leading zeros; ten digits are enough (30_encoding.md R79). -/
def printU32 (n : U32) : Bytes := decimalDigits 10 n.toNat []

/-- The digit of a bit (30_encoding.md R70). -/
def printBit (v : Bool) : Byte := if v then char1 else char0

/-- The canonical token of a ResetCommand (30_encoding.md R79). -/
def printCommand : Command → Bytes
  | .setDTR v => [charD, printBit v]
  | .setRTS v => [charR, printBit v]
  | .commit => [charS]
  | .wait n => charW :: printU32 n

/-- `print` of 43_reset_sequencer.md R146: the commands' tokens joined with `|` (30_encoding.md R79). -/
def print : List Command → Bytes
  | [] => []
  | [c] => printCommand c
  | c :: c' :: cs => printCommand c ++ charBar :: print (c' :: cs)

/-- The code of an instruction, from the opcode map (30_encoding.md R65), the grammar (R68) and the byte-stuffing table (R62). -/
def encode : Instr → Code
  | .encodeFrame p => .request ⟨0x01, [.bytes p]⟩
  | .decodeFrame b => .request ⟨0x02, [.bytes b]⟩
  | .read t m => .request ⟨0x03, [.u32 t, .u32 m]⟩
  | .readRaw t => .request ⟨0x04, [.u32 t]⟩
  | .writeFrame p => .request ⟨0x05, [.bytes p]⟩
  | .classicReset d => .request ⟨0x06, [.u32 d]⟩
  | .usbJtagSerialReset => .request ⟨0x07, []⟩
  | .hardReset g => .request ⟨0x08, [.bool g]⟩
  | .customReset q => .request ⟨0x09, [.bytes q]⟩
  | .validateCustomResetSequence q => .request ⟨0x0A, [.bytes q]⟩
  | .setFraming e => .request ⟨0x0B, [.bool e]⟩
  | .notifyConnect => .request ⟨0x0C, []⟩
  | .reserved opcode => .request ⟨opcode, []⟩
  | .setDTR v => .token (printCommand (.setDTR v))
  | .setRTS v => .token (printCommand (.setRTS v))
  | .commit => .token (printCommand .commit)
  | .wait n => .token (printCommand (.wait n))
  | .slipEnd => .slip [byteEnd]
  | .escEnd => .slip [byteEsc, byteEscEnd]
  | .escEsc => .slip [byteEsc, byteEscEsc]
  | .escLone => .slip [byteEsc]
  | .literal x => .slip [x]

/-! ### The opcode table's numbers -/

/-- Operands of value zero, of the types the opcode has (30_encoding.md R65). -/
def zeroOperands (opcode : Byte) : List Operand :=
  match opcode.toNat with
  | 0x01 | 0x02 | 0x05 | 0x09 | 0x0A => [.bytes []]
  | 0x03 => [.u32 0, .u32 0]
  | 0x04 | 0x06 => [.u32 0]
  | 0x08 | 0x0B => [.bool false]
  | _ => []

/-- The code the opcode table numbers `w` in `nbits` bits. The table has rows of all three classes on the same byte
values: the row that fixes most bits is meant (log 1). A two-byte row is numbered with its first byte high, as the
table writes 0xDBDC (log 2). An operand word of zeros is the operand 0: the digit `0` of a DSL token (log 3). -/
def tableCode (nbits w : Nat) : Option Code :=
  if nbits = 8 ∧ w < 256 then
    let b : Byte := BitVec.ofNat 8 w
    if b = charD ∨ b = charR ∨ b = charW then some (.token [b, char0])
    else if b = charS then some (.token [b])
    else if b = byteEnd ∨ b = byteEsc then some (.slip [b])
    else some (.request ⟨b, zeroOperands b⟩)
  else if nbits = 16 ∧ w < 65536 then some (.slip [BitVec.ofNat 8 (w / 256), BitVec.ofNat 8 w])
  else none

/-- The instruction the decoder reads from the table's word, with S_ARG_STRICT at its default. -/
def decodeTableWord (nbits w : Nat) : Option Instr :=
  match tableCode nbits w with
  | none => none
  | some c => (decode Params.default.sArgStrict c).toOption

end Sys2Proof
end

