-- ==== Sys2Proof/Machine/State.lean ====
section
/-! DEFINITION. The state of ESPJS-CORE: the registers of spec/10_state.md R20, what the spec asks a
model to record (responses, event history, refusal mark), and the model's own fields. -/

namespace Sys2Proof.Machine

/-- STATE (10_state.md R22). -/
inductive CoreState where
  | idle
  | readPoll
  | readFlushAwait
  | rawPoll
  | writeAwait
  | seqRun
  | seqWait
  | seqCommitAwait
  deriving DecidableEq, Repr

/-- The status of a response (60_exceptions.md R165); its codes are in Flags.lean. -/
inductive Status where
  | ok
  | timeout
  | channelError
  | invalidSequence
  deriving DecidableEq, Repr

/-- The kind of a response (30_encoding.md R64); its codes are in Flags.lean. -/
inductive Kind where
  | none
  | frame
  | raw
  | bytes
  | decoded
  | bool
  deriving DecidableEq, Repr

/-- A response (30_encoding.md R64). -/
structure Response where
  status : Status
  kind : Kind
  flag : Bool
  data : Bytes
  rest : Bytes
  deriving DecidableEq, Repr

/-- An entry of the event history (00_scope.md R12): a query with its answer, an action, an acknowledgement
with the number of its action (log 8), or an executed ResetCommand. -/
inductive Event where
  | isReadable (answer : Bool)
  | readChunk (answer : Option Bytes)
  | isWritable (answer : Bool)
  | write (frame : Bytes)
  | flush
  | setLines (dtr rts : Bool)
  | ack (action : Nat) (r : Ack)
  | seqCmd (c : Command)
  deriving DecidableEq, Repr

/-- The stand-alone codec's working values: what the pseudocode of 40_slip_codec.md R88, R89 holds while it
scans a byte string. They are the model's own, no CORE register (log 14). -/
structure Codec where
  /-- the bytes not yet scanned -/
  input : Bytes
  /-- whether a start marker has been seen and its end marker has not -/
  inFrame : Bool
  /-- the unescaped bytes of the open frame -/
  body : Bytes
  /-- the frames found -/
  frames : List Bytes
  deriving DecidableEq, Repr

/-- A codec that has scanned nothing of `b`. -/
def Codec.start (b : Bytes) : Codec where
  input := b
  inFrame := false
  body := []
  frames := []

/-- The state. -/
structure State where
  -- CORE registers (10_state.md R20)
  /-- LEFTOVER (R21) -/
  leftover : Bytes
  /-- FRAMING_EN (R25) -/
  framingEn : Bool
  /-- PEND_DTR (R26) -/
  pendDtr : Bool
  /-- PEND_RTS (R27) -/
  pendRts : Bool
  /-- STATE (R22) -/
  state : CoreState
  /-- OP (R23) -/
  op : Byte
  /-- TO (R23) -/
  toMs : U32
  /-- MIN (R23) -/
  minBytes : U32
  /-- ACC (R24) -/
  acc : Bytes
  /-- TMR_RD (R31) -/
  tmrRd : U32
  /-- SEQ (R28) -/
  seq : List Command
  /-- N (R28) -/
  n : Nat
  /-- IDX (R30) -/
  idx : Nat
  /-- ERRMODE (R29) -/
  errmode : ErrMode
  /-- TMR_W (R33) -/
  tmrW : U32
  /-- WAIT_N (R33) -/
  waitN : U32
  -- what a model records
  /-- the responses delivered to HOST, oldest first (00_scope.md R11) -/
  responses : List Response
  /-- the event history, oldest first (00_scope.md R12) -/
  history : List Event
  /-- the refusal mark, which no step clears (60_exceptions.md R170) -/
  refusalMark : Bool
  /-- the implementation parameters, which no step changes (00_scope.md R6) -/
  params : Params
  -- the model's own fields: CHANNEL, the schedule, the stand-alone codec
  /-- what CHANNEL would answer now (00_scope.md R10, log 7) -/
  answers : Answers
  /-- the number of actions issued, which is the number of the newest one (log 8) -/
  issued : Nat
  /-- the agents' next moves, in order (log 6) -/
  moves : List Move
  /-- how many free values have been drawn (log 6, 9) -/
  draws : Nat
  /-- the stand-alone codec (log 14) -/
  codec : Codec
  deriving DecidableEq, Repr

/-- Why the machine stops with a fault. -/
inductive Fault where
  /-- BufferOverflow (60_exceptions.md R182). Raised by a poll of READ whose append would exceed a finite BUF_CAP, and
  by the acceptance of a byte-sequence operand longer than a finite BUF_CAP or SEQ_MAX_LEN. With the default parameters
  it is never raised. Safe: the spec calls it a fault whose state is never final (log 12). -/
  | bufferOverflow
  /-- SEQ_RUN with IDX other than N and no command at IDX. Raised by the sequencer's fetch, only in states that no run
  reaches (10_state.md R30: IDX never exceeds N = len(SEQ)). Safe (log 16). -/
  | noCommand
  deriving DecidableEq, Repr

/-- Why the machine refuses. -/
inductive Refusal where
  /-- An instruction that has no meaning yet, by its mnemonic. Raised by an arm of exec; no arm does. Safe. -/
  | notModelled (mnemonic : String)
  /-- A request whose operands are not those its opcode is typed with. Raised by step; HOST has no such request
  (30_encoding.md R63). Safe (log 4). -/
  | illTypedRequest (opcode : Byte)
  /-- A request while STATE is not IDLE. Raised by step: the machine is stuck there, since the model has no such HOST
  move (30_encoding.md R63, 93_implementation_defined.md U14). Safe (log 15). -/
  | requestOutsideIdle (opcode : Byte)
  deriving DecidableEq, Repr

/-- The machine right after block reset (10_state.md R40, 70_reset_and_hazards.md R185), with the default parameters.
OP, TO, MIN, ERRMODE and WAIT_N are unspecified there; their values here are the model's (log 10). -/
def State.reset : State where
  leftover := []
  framingEn := Params.default.framingReset
  pendDtr := Params.default.lineResetDtr
  pendRts := Params.default.lineResetRts
  state := .idle
  op := 0          -- DESIGN CHOICE (log 10)
  toMs := 0          -- DESIGN CHOICE (log 10)
  minBytes := 0         -- DESIGN CHOICE (log 10)
  acc := []
  tmrRd := 0
  seq := []
  n := 0
  idx := 0
  errmode := .propagate  -- DESIGN CHOICE (log 10)
  tmrW := 0
  waitN := 0       -- DESIGN CHOICE (log 10)
  responses := []
  history := []
  refusalMark := false
  params := Params.default
  answers := ⟨false, false, none⟩  -- DESIGN CHOICE (log 7)
  issued := 0
  moves := []
  draws := 0
  codec := Codec.start []

end Sys2Proof.Machine
end

