-- ==== Sys2Proof/Machine/Flags.lean ====
section
/-! DEFINITION. The block has no condition codes (spec/10_state.md R34): an outcome is reported only in a response. This
file holds the computations of a response's status and kind. -/

namespace Sys2Proof.Machine

/-- The status codes of 60_exceptions.md R165. -/
def Status.code : Status → Byte
  | .ok => 0
  | .timeout => 1
  | .channelError => 2
  | .invalidSequence => 3

/-- The kind codes of 30_encoding.md R64. -/
def Kind.code : Kind → Byte
  | .none => 0
  | .frame => 1
  | .raw => 2
  | .bytes => 3
  | .decoded => 4
  | .bool => 5

/-- What a failed Commit reports in each error mode (43_reset_sequencer.md R138). -/
def commitFailure : ErrMode → Status
  | .propagate => .channelError
  | .wrap => .invalidSequence

/-- The TIMEOUT condition of READ and READ_RAW: TO > 0 and TMR_RD >= TO (60_exceptions.md R166). -/
def deadlinePassed (s : State) : Bool := 0 < s.toMs && s.toMs ≤ s.tmrRd

end Sys2Proof.Machine
end

