-- ==== Sys2Proof/Machine/Ops.lean ====
section
/-! DEFINITION. The operations every meaning is written over: recording events, channel queries and actions,
responses and errors, the timers, block reset. -/

namespace Sys2Proof.Machine

/-- What a meaning answers. -/
abbrev Result := Host.Outcome State Fault Refusal

/-! ### Events, queries, actions -/

/-- Add an event at the end of the history (00_scope.md R12). -/
def State.record (s : State) (e : Event) : State := { s with history := s.history ++ [e] }

/-- Issue a channel action: it is recorded, and it is the newest action (00_scope.md R10, R12). -/
def State.issue (s : State) (e : Event) : State := { s.record e with issued := s.issued + 1 }

/-- Ask `is_readable` (00_scope.md R10). -/
def State.askReadable (s : State) : State := s.record (.isReadable s.answers.readable)

/-- Ask `is_writable` (00_scope.md R10). -/
def State.askWritable (s : State) : State := s.record (.isWritable s.answers.writable)

/-- Poll `read_chunk`: a chunk that is returned is consumed, and CHANNEL never returns it again (20_memory.md R49). -/
def State.pollChunk (s : State) : State :=
  { s.record (.readChunk s.answers.chunk) with answers := { s.answers with chunk := none } }

/-! ### Ending an operation -/

/-- OP, TO, MIN, ERRMODE and WAIT_N take free values: in IDLE and after block reset each holds "any value"
(93_implementation_defined.md U20, 10_state.md R23, R40, log 9). -/
def State.unspecify (s : State) : State :=
  { s with
    op := Config.freeOp s.draws
    toMs := Config.freeTo s.draws
    minBytes := Config.freeMin s.draws
    errmode := Config.freeErrmode s.draws
    waitN := Config.freeWaitN s.draws
    draws := s.draws + 1 }

/-- `respond` of 00_scope.md R11: the response is delivered and CORE returns to IDLE, where no timer runs. -/
def State.respond (s : State) (r : Response) : State :=
  { s.unspecify with state := .idle, responses := s.responses ++ [r] }

/-- A response without a result value (30_encoding.md R64: "Fields a kind does not use are `[]` or 0"). -/
def Response.plain (status : Status) : Response := ⟨status, .none, false, [], []⟩

/-- A response of kind FRAME, RAW or BYTES. -/
def Response.ofData (kind : Kind) (data : Bytes) : Response := ⟨.ok, kind, false, data, []⟩

/-- `respond(OK, NONE)`. -/
def State.done (s : State) : State := s.respond (.plain .ok)

/-- `raise`: the block's only exception entry. The operation ends with the error's status and kind NONE, no state is
saved, and nothing is to be returned from (00_scope.md R11, 60_exceptions.md R173-R175). -/
def State.raise (s : State) (status : Status) : State := s.respond (.plain status)

/-! ### Accepting a request -/

/-- Accepting a request latches its opcode in OP (30_encoding.md R63, 10_state.md R23, log 18). -/
def State.accept (s : State) (opcode : Byte) : State := { s with op := opcode }

/-! ### Timers -/

/-- An increment that saturates at 2^32-1 (10_state.md R32). -/
def saturatingSucc (t : U32) : U32 := if t = BitVec.allOnes 32 then t else t + 1

/-- A CLOCK step (10_state.md R32): TMR_RD counts in READ_POLL and RAW_POLL, TMR_W in SEQ_WAIT. -/
def State.tick (s : State) : State :=
  match s.state with
  | .readPoll | .rawPoll => { s with tmrRd := saturatingSucc s.tmrRd }
  | .seqWait => { s with tmrW := saturatingSucc s.tmrW }
  | .idle | .readFlushAwait | .writeAwait | .seqRun | .seqCommitAwait => s

/-! ### Block reset -/

/-- Block reset (70_reset_and_hazards.md R185, R186): every CORE register takes its value of 10_state.md R40, from any
STATE, with no response and no channel event. The refusal mark and everything outside CORE stay. -/
def State.blockReset (s : State) : State :=
  { s.unspecify with
    leftover := []
    framingEn := s.params.framingReset
    pendDtr := s.params.lineResetDtr
    pendRts := s.params.lineResetRts
    state := .idle
    acc := []
    tmrRd := 0
    seq := []
    n := 0
    idx := 0
    tmrW := 0 }

/-! ### Reserved opcodes -/

/-- A refused request: STATE, every register and CHANNEL are unchanged, no response is produced, and the refusal mark
is set (30_encoding.md R76, 60_exceptions.md R170, log 5). -/
def State.refuse (s : State) : State := { s with refusalMark := true }

/-- RESERVED, opcodes 0x00 and 0x0D-0xFF (30_encoding.md R76). -/
def execReserved (_opcode : Byte) (s : State) : Result := .next s.refuse

end Sys2Proof.Machine
end

