-- ==== Sys2Proof/Machine/Operands.lean ====
section
/-! DEFINITION. The operand forms of a host request: byte sequences with a capacity, u32 and bool values, and
the operands a program omits. -/

namespace Sys2Proof.Machine

/-- Whether a length is within a capacity; `none` is unbounded (00_scope.md R6). -/
def within (cap : Option Nat) (length : Nat) : Bool :=
  match cap with
  | none => true
  | some c => length ≤ c

/-- A `payload` or `buffer` operand may have any length up to BUF_CAP (30_encoding.md R83, log 12). -/
def bufferFits (b : Bytes) (s : State) : Bool := within s.params.bufCap b.length

/-- A `sequence` operand may have any length up to SEQ_MAX_LEN (30_encoding.md R83, log 12). -/
def sequenceFits (q : Bytes) (s : State) : Bool := within s.params.seqMaxLen q.length

/-- Go on when the capacity is kept, and fault with BufferOverflow when it is not (60_exceptions.md R182). -/
def orOverflow (fits : Bool) (result : Result) : Result :=
  if fits then result else .fault .bufferOverflow

/-! ### Operands a program omits (30_encoding.md R80): the default is resolved when the program is written -/

/-- READ_TIMEOUT_DEFAULT, and the default of READ_RAW's `timeout_ms` (00_scope.md R6, D11). -/
def readTimeoutDefault : U32 := 0
/-- MIN_BYTES_DEFAULT (00_scope.md R6). -/
def minBytesDefault : U32 := 12
/-- RESET_DELAY_DEFAULT (00_scope.md R6). -/
def resetDelayDefault : U32 := 50

/-- READ with its omitted operands. -/
def readOf (timeoutMs minBytes : Option U32) : Instr :=
  .read (timeoutMs.getD readTimeoutDefault) (minBytes.getD minBytesDefault)

/-- READ_RAW with its omitted operand. -/
def readRawOf (timeoutMs : Option U32) : Instr := .readRaw (timeoutMs.getD readTimeoutDefault)

/-- CLASSIC_RESET with its omitted operand. -/
def classicResetOf (delayMs : Option U32) : Instr := .classicReset (delayMs.getD resetDelayDefault)

end Sys2Proof.Machine
end

