-- ==== Sys2Proof/Machine/Codec.lean ====
section
/-! DEFINITION. The SLIP codec (spec/40_slip_codec.md): the functions esc, encode, decode, unescape, the operations
ENCODE_FRAME and DECODE_FRAME, and the meanings of the SLIP tokens. -/

namespace Sys2Proof.Machine

/-! ### The functions -/

/-- `esc` of R85. -/
def esc (x : Byte) : Bytes :=
  if x = byteEnd then [byteEsc, byteEscEnd]
  else if x = byteEsc then [byteEsc, byteEscEsc]
  else [x]

/-- The escaped payload: the body of the frame (R86). -/
def escapeAll : Bytes → Bytes
  | [] => []
  | x :: xs => esc x ++ escapeAll xs

/-- `encode` of R86. -/
def slipEncode (p : Bytes) : Bytes := [byteEnd] ++ escapeAll p ++ [byteEnd]

/-- `unescape` of R89. A 0xDB that is not followed by 0xDC or 0xDD is output unchanged, and the next byte is decoded
on its own. -/
def unescape : Bytes → Bytes
  | [] => []
  | [b] => [b]
  | b :: c :: rest =>
    if b = byteEsc ∧ c = byteEscEnd then byteEnd :: unescape rest
    else if b = byteEsc ∧ c = byteEscEsc then byteEsc :: unescape rest
    else b :: unescape (c :: rest)

/-- The bytes before the first 0xC0 and the bytes after it, where there is one. -/
def cutAtEnd : Bytes → Option (Bytes × Bytes)
  | [] => none
  | b :: bs =>
    if b = byteEnd then some ([], bs)
    else match cutAtEnd bs with
      | none => none
      | some (before, after) => some (b :: before, after)

/-- `decode` of R88: the first complete frame, unescaped, and the bytes after its end marker; or no frame and the
whole buffer unchanged. -/
def slipDecode (b : Bytes) : Option Bytes × Bytes :=
  match cutAtEnd b with
  | none => (none, b)
  | some (_, afterStart) =>
    match cutAtEnd afterStart with
    | none => (none, b)
    | some (body, rest) => (some (unescape body), rest)

/-! ### The operations -/

/-- The response of DECODE_FRAME (R92, 30_encoding.md R64). -/
def decodedResponse : Option Bytes × Bytes → Response
  | (some x, r) => ⟨.ok, .decoded, true, x, r⟩
  | (none, r) => ⟨.ok, .decoded, false, [], r⟩

/-- ENCODE_FRAME (R91). -/
def execEncodeFrame (payload : Bytes) (s : State) : Result :=
  orOverflow (bufferFits payload s)
    (.next ((s.accept 0x01).respond (.ofData .bytes (slipEncode payload))))

/-- DECODE_FRAME (R92). LEFTOVER is neither read nor written. -/
def execDecodeFrame (buffer : Bytes) (s : State) : Result :=
  orOverflow (bufferFits buffer s)
    (.next ((s.accept 0x02).respond (decodedResponse (slipDecode buffer))))

/-! ### The SLIP tokens: what `decode` does with each, on the stand-alone codec (R88, R89; log 14) -/

/-- A 0xC0 opens a frame, or ends the one that is open (R88). -/
def Codec.mark (c : Codec) : Codec :=
  if c.inFrame then { c with inFrame := false, body := [], frames := c.frames ++ [c.body] }
  else { c with inFrame := true, body := [] }

/-- An unescaped byte of the body is output; bytes outside a frame are dropped (R89, R94). -/
def Codec.push (c : Codec) (x : Byte) : Codec :=
  if c.inFrame then { c with body := c.body ++ [x] } else c

/-- END, 0xC0: a start or an end marker (R88). -/
def execSlipEnd (s : State) : Result := .next { s with codec := s.codec.mark }

/-- ESC_END, 0xDB 0xDC: stands for 0xC0 (R89). -/
def execEscEnd (s : State) : Result := .next { s with codec := s.codec.push byteEnd }

/-- ESC_ESC, 0xDB 0xDD: stands for 0xDB (R89). -/
def execEscEsc (s : State) : Result := .next { s with codec := s.codec.push byteEsc }

/-- ESC_LONE, a 0xDB that opens no escape pair: output unchanged (R89, 30_encoding.md R62). -/
def execEscLone (s : State) : Result := .next { s with codec := s.codec.push byteEsc }

/-- LITERAL, any other byte: stands for itself (R89, 30_encoding.md R62). -/
def execLiteral (x : Byte) (s : State) : Result := .next { s with codec := s.codec.push x }

end Sys2Proof.Machine
end

