-- ==== Sys2Proof/Machine/Reader.lean ====
section
/-! DEFINITION. The framed reader and writer (spec/41_framed_reader.md): READ, READ_RAW, WRITE_FRAME, SET_FRAMING,
NOTIFY_CONNECT, with their poll steps and acknowledgements. -/

namespace Sys2Proof.Machine

/-! ### READ -/

/-- READ step 2, entry to the accumulate loop (R102). -/
def State.enterAccumulate (s : State) : State :=
  { s with acc := s.leftover, leftover := [], tmrRd := 0, state := .readPoll }

/-- A frame found in `from` is delivered and the decode remainder becomes LEFTOVER (R101, R106). -/
def State.deliverFrame (s : State) (frame rest : Bytes) : State :=
  { s with leftover := rest }.respond (.ofData .frame frame)

/-- READ (R100-R102): the acceptance step. With framing enabled and a frame in LEFTOVER, the frame is delivered with no
channel event; else READ enters its accumulate loop. -/
def execRead (timeoutMs minBytes : U32) (s : State) : Result :=
  let s := { s.accept 0x03 with toMs := timeoutMs, minBytes := minBytes }
  if s.framingEn && !s.leftover.isEmpty then
    match slipDecode s.leftover with
    | (some x, r) => .next (s.deliverFrame x r)
    | (none, _) => .next s.enterAccumulate
  else .next s.enterAccumulate

/-- READ's deadline (R103): the accumulated bytes are kept in LEFTOVER and one `flush` is issued. -/
def State.readTimedOut (s : State) : State :=
  { s with leftover := s.acc, acc := [], state := .readFlushAwait }.issue .flush

/-- READ finish (R106 with framing enabled, R107 with framing disabled). -/
def State.readFinish (s : State) : State :=
  let a := s.acc
  let s := { s with acc := [] }
  if s.framingEn then
    match slipDecode a with
    | (some x, r) => s.deliverFrame x r
    | (none, _) => { s with leftover := [] }.respond (.ofData .raw a)
  else s.respond (.ofData .raw a)

/-- An appended chunk (R105): a finite BUF_CAP may overflow; the threshold is tested only after an append. -/
def readAppend (x : Bytes) (s : State) : Result :=
  orOverflow (within s.params.bufCap (s.acc.length + x.length))
    (let s := { s with acc := s.acc ++ x }
     if s.minBytes.toNat ≤ s.acc.length then .next s.readFinish else .next s)

/-- READ's poll step (R103-R105, priority R172): the deadline, then readability, then one poll. -/
def readPollStep (s : State) : Result :=
  if deadlinePassed s then .next s.readTimedOut
  else if !s.answers.readable then
    .next ({ s.askReadable with acc := [] }.respond (.ofData .raw s.acc))
  else match s.answers.chunk with
    | none => .next s.askReadable.pollChunk
    | some x => readAppend x s.askReadable.pollChunk

/-- READ's timeout is reported when the `flush` is acknowledged, Ok or Err (R108). -/
def flushAcked (_r : Ack) (s : State) : Result := .next (s.raise .timeout)

/-! ### READ_RAW -/

/-- READ_RAW (R110, R111): a LEFTOVER that is not empty is handed over whole; else READ_RAW enters its poll loop. -/
def execReadRaw (timeoutMs : U32) (s : State) : Result :=
  let s := { s.accept 0x04 with toMs := timeoutMs }
  if s.leftover.isEmpty then .next { s with tmrRd := 0, state := .rawPoll }
  else .next ({ s with leftover := [] }.respond (.ofData .raw s.leftover))

/-- READ_RAW's poll step (R112): the first non-empty chunk is returned. -/
def rawPollStep (s : State) : Result :=
  if deadlinePassed s then .next (s.raise .timeout)
  else if !s.answers.readable then .next (s.askReadable.respond (.ofData .raw []))
  else match s.answers.chunk with
    | some (b :: bs) => .next (s.askReadable.pollChunk.respond (.ofData .raw (b :: bs)))
    | some [] | none => .next s.askReadable.pollChunk

/-! ### WRITE_FRAME -/

/-- A channel that is not writable (R114, parameter WRITE_WHEN_UNWRITABLE). -/
def State.unwritable (s : State) : State :=
  match s.params.writeWhenUnwritable with
  | .skipOk => s.done
  | .error => s.raise .channelError

/-- WRITE_FRAME (R114): the whole encoded frame in one `write`, whatever FRAMING_EN holds. -/
def execWriteFrame (payload : Bytes) (s : State) : Result :=
  orOverflow (bufferFits payload s)
    (let s := (s.accept 0x05).askWritable
     if s.answers.writable then
       .next ({ s with state := .writeAwait }.issue (.write (slipEncode payload)))
     else .next s.unwritable)

/-- WRITE_FRAME's completion (R115). -/
def writeAcked (r : Ack) (s : State) : Result :=
  match r with
  | .ok => .next s.done
  | .err => .next (s.raise .channelError)

/-! ### Reader configuration -/

/-- SET_FRAMING (R116). LEFTOVER is unchanged. -/
def execSetFraming (enable : Bool) (s : State) : Result :=
  .next { s.accept 0x0B with framingEn := enable }.done

/-- NOTIFY_CONNECT (R117). -/
def execNotifyConnect (s : State) : Result :=
  .next { s.accept 0x0C with leftover := [] }.done

end Sys2Proof.Machine
end

