-- ==== Sys2Proof/Machine/Line.lean ====
section
/-! DEFINITION. The line controller (spec/42_line_controller.md): SetDTR, SetRTS, Commit and its acknowledgement. -/

namespace Sys2Proof.Machine

/-- A command that completes in its own step: IDX advances by 1 (10_state.md R30). -/
def State.advance (s : State) : State := { s with idx := s.idx + 1 }

/-- SetDTR (R125). -/
def execSetDTR (v : Bool) (s : State) : Result :=
  .next { s.record (.seqCmd (.setDTR v)) with pendDtr := v }.advance

/-- SetRTS (R126). -/
def execSetRTS (v : Bool) (s : State) : Result :=
  .next { s.record (.seqCmd (.setRTS v)) with pendRts := v }.advance

/-- Commit, issue (R127): one `set_lines` with both pending values. -/
def execCommit (s : State) : Result :=
  .next ({ s.record (.seqCmd .commit) with state := .seqCommitAwait }.issue (.setLines s.pendDtr s.pendRts))

/-- Commit, completion (R128). -/
def commitAcked (r : Ack) (s : State) : Result :=
  match r with
  | .ok => .next { s.advance with state := .seqRun }
  | .err => .next (s.raise (commitFailure s.errmode))

end Sys2Proof.Machine
end

