-- ==== Sys2Proof/Machine/Sequencer.lean ====
section
/-! DEFINITION. The reset sequencer (spec/43_reset_sequencer.md): Wait, the built-in strategies, custom sequences. -/

namespace Sys2Proof.Machine

/-- Starting a sequence (R133). -/
def State.start (s : State) (list : List Command) (mode : ErrMode) : State :=
  { s with seq := list, n := list.length, idx := 0, errmode := mode, state := .seqRun }

/-! ### Wait -/

/-- Wait, start (R135). -/
def execWait (n : U32) (s : State) : Result :=
  .next { s.record (.seqCmd (.wait n)) with waitN := n, tmrW := 0, state := .seqWait }

/-- Wait, completion: each CORE step in SEQ_WAIT (R136). -/
def seqWaitStep (s : State) : Result :=
  if s.waitN ≤ s.tmrW then .next { s.advance with state := .seqRun } else .next s

/-! ### The built-in lists -/

/-- The classic list (R142); the Wait of `delay_ms = 0` is left out. -/
def classicList (d : U32) : List Command :=
  [.setDTR false, .setRTS true, .commit, .wait 100, .setDTR true, .setRTS false, .commit]
    ++ (if d = 0 then [] else [.wait d])
    ++ [.setDTR false, .commit]

/-- The usb_jtag_serial list (R143). -/
def usbJtagSerialList : List Command :=
  [.setRTS false, .setDTR false, .commit, .wait 100,
   .setDTR true, .setRTS false, .commit, .wait 100,
   .setRTS true, .setDTR false, .commit, .wait 100,
   .setRTS false, .setDTR false, .commit]

/-- The hard lists (R144). -/
def hardList (usingUsbOtg : Bool) : List Command :=
  if usingUsbOtg then [.wait 200, .setRTS false, .commit, .wait 200]
  else [.wait 100, .setRTS false, .commit]

/-- CLASSIC_RESET (R141). -/
def execClassicReset (delayMs : U32) (s : State) : Result :=
  .next ((s.accept 0x06).start (classicList delayMs) .propagate)

/-- USB_JTAG_SERIAL_RESET (R143). -/
def execUsbJtagSerialReset (s : State) : Result :=
  .next ((s.accept 0x07).start usbJtagSerialList .propagate)

/-- HARD_RESET (R144). -/
def execHardReset (usingUsbOtg : Bool) (s : State) : Result :=
  .next ((s.accept 0x08).start (hardList usingUsbOtg) .propagate)

/-! ### Custom sequences -/

/-- CUSTOM_RESET (R148): a valid string starts its sequence; an invalid one is a silent no-op (R149). -/
def execCustomReset (sequence : Bytes) (s : State) : Result :=
  orOverflow (sequenceFits sequence s)
    (match parse s.params.sArgStrict sequence with
     | none => .next (s.accept 0x09).done
     | some list => .next ((s.accept 0x09).start list .wrap))

/-- VALIDATE_CUSTOM_RESET_SEQUENCE (R147). -/
def execValidateCustomResetSequence (sequence : Bytes) (s : State) : Result :=
  orOverflow (sequenceFits sequence s)
    (.next ((s.accept 0x0A).respond ⟨.ok, .bool, valid s.params.sArgStrict sequence, [], []⟩))

end Sys2Proof.Machine
end

