-- ==== Sys2Proof/Machine/Fetch.lean ====
section
/-! DEFINITION. What the next move makes the machine do: which instruction it runs, or which continuation of
the active operation (spec/00_scope.md R13). A request outside IDLE is no move of HOST, and the machine is stuck at it
(spec/93_implementation_defined.md U14); a CORE or codec move with nothing to do changes nothing (log 15). -/

namespace Sys2Proof.Machine

/-- What a move leads to: an instruction to run in a state, or an answer at once. -/
inductive Fetched where
  | run (i : Instr) (s : State)
  | answer (r : Result)

/-- HOST issues a request: CORE accepts it only in IDLE, and there is no such move elsewhere (30_encoding.md R63,
93_implementation_defined.md U14). -/
def fetchRequest (r : Request) (s : State) : Fetched :=
  if s.state = .idle then
    match decodeRequest r with
    | .ok i => .run i s
    | .error _ => .answer (.refused (.illTypedRequest r.opcode))
  else .answer (.refused (.requestOutsideIdle r.opcode))

/-- The SEQ_RUN step (43_reset_sequencer.md R134): complete (R137), or the command at IDX. -/
def fetchCommand (s : State) : Fetched :=
  if s.idx = s.n then .answer (.next s.done)
  else match s.seq[s.idx]? with
    | some c => .run c.toInstr s
    | none => .answer (.fault .noCommand)

/-- A CORE step: none in IDLE or in an await state (00_scope.md R13, 10_state.md R22). -/
def fetchCore (s : State) : Fetched :=
  match s.state with
  | .readPoll => .answer (readPollStep s)
  | .rawPoll => .answer (rawPollStep s)
  | .seqRun => fetchCommand s
  | .seqWait => .answer (seqWaitStep s)
  | .idle | .readFlushAwait | .writeAwait | .seqCommitAwait => .answer (.next s)

/-- Whether the history holds an acknowledgement of action `k`. -/
def acknowledged (k : Nat) (s : State) : Bool :=
  s.history.any fun e => match e with
    | .ack k' _ => k' == k
    | _ => false

/-- An acknowledgement that CORE does not await: it is recorded once when its action was issued, and discarded
(70_reset_and_hazards.md R186, log 8). -/
def lateAck (k : Nat) (r : Ack) (s : State) : State :=
  if 1 ≤ k && k ≤ s.issued && !acknowledged k s then s.record (.ack k r) else s

/-- CHANNEL acknowledges action `k`: an await state is ended by the acknowledgement of the newest action, and by
nothing else (00_scope.md R13, 60_exceptions.md R172). -/
def ackStep (k : Nat) (r : Ack) (s : State) : Result :=
  if k = s.issued then
    match s.state with
    | .readFlushAwait => flushAcked r (s.record (.ack k r))
    | .writeAwait => writeAcked r (s.record (.ack k r))
    | .seqCommitAwait => commitAcked r (s.record (.ack k r))
    | .idle | .readPoll | .rawPoll | .seqRun | .seqWait => .next (lateAck k r s)
  else .next (lateAck k r s)

/-- The stand-alone codec takes the next SLIP token of its byte string (log 14). -/
def fetchSlip (s : State) : Fetched :=
  match slipToken s.codec.input with
  | some (i, rest) => .run i { s with codec := { s.codec with input := rest } }
  | none => .answer (.next s)

/-- What a move leads to. -/
def fetchMove (m : Move) (s : State) : Fetched :=
  match m with
  | .request r => fetchRequest r s
  | .core => fetchCore s
  | .tick => .answer (.next s.tick)
  | .channel a => .answer (.next { s with answers := a })
  | .ack k r => .answer (ackStep k r s)
  | .blockReset => .answer (.next s.blockReset)
  | .present b => .answer (.next { s with codec := Codec.start b })
  | .codec => fetchSlip s

/-- The next move, and the state without it: the head of the schedule, or a free move when it is empty (log 6). -/
def takeMove (s : State) : Move × State :=
  match s.moves with
  | m :: ms => (m, { s with moves := ms })
  | [] => (Config.freeMove s.draws, { s with draws := s.draws + 1 })

/-- What the next move leads to. -/
def fetch (s : State) : Fetched := fetchMove (takeMove s).1 (takeMove s).2

/-- `s` with a code placed so that the very next step runs it: a request at the head of the schedule in IDLE, a
ResetCommand as the sequence, a SLIP token as the codec's byte string. A token that is no command can only reach the
machine inside a CUSTOM_RESET request (log 3, 6). -/
def State.withCode (s : State) (c : Code) : State :=
  match c with
  | .request r => { s with state := .idle, moves := .request r :: s.moves }
  | .token t =>
    match decodeToken s.params.sArgStrict t with
    | .ok c => { s with state := .seqRun, seq := [c], n := 1, idx := 0, moves := .core :: s.moves }
    | .error _ => { s with state := .idle, moves := .request ⟨0x09, [.bytes t]⟩ :: s.moves }
  | .slip b => { s with codec := { s.codec with input := b }, moves := .codec :: s.moves }

end Sys2Proof.Machine
end

