-- ==== Sys2Proof/Machine/Dispatch.lean ====
section
/-! DEFINITION. exec: one arm for every constructor of Instr, one call of its meaning. -/

namespace Sys2Proof.Machine

def exec (i : Instr) (s : State) : Host.Outcome State Fault Refusal :=
  match i with
  | .encodeFrame payload => Sys2Proof.Machine.execEncodeFrame payload s
  | .decodeFrame buffer => Sys2Proof.Machine.execDecodeFrame buffer s
  | .read timeoutMs minBytes => Sys2Proof.Machine.execRead timeoutMs minBytes s
  | .readRaw timeoutMs => Sys2Proof.Machine.execReadRaw timeoutMs s
  | .writeFrame payload => Sys2Proof.Machine.execWriteFrame payload s
  | .classicReset delayMs => Sys2Proof.Machine.execClassicReset delayMs s
  | .usbJtagSerialReset => Sys2Proof.Machine.execUsbJtagSerialReset s
  | .hardReset usingUsbOtg => Sys2Proof.Machine.execHardReset usingUsbOtg s
  | .customReset sequence => Sys2Proof.Machine.execCustomReset sequence s
  | .validateCustomResetSequence sequence => Sys2Proof.Machine.execValidateCustomResetSequence sequence s
  | .setFraming enable => Sys2Proof.Machine.execSetFraming enable s
  | .notifyConnect => Sys2Proof.Machine.execNotifyConnect s
  | .reserved opcode => Sys2Proof.Machine.execReserved opcode s
  | .setDTR v => Sys2Proof.Machine.execSetDTR v s
  | .setRTS v => Sys2Proof.Machine.execSetRTS v s
  | .commit => Sys2Proof.Machine.execCommit s
  | .wait n => Sys2Proof.Machine.execWait n s
  | .slipEnd => Sys2Proof.Machine.execSlipEnd s
  | .escEnd => Sys2Proof.Machine.execEscEnd s
  | .escEsc => Sys2Proof.Machine.execEscEsc s
  | .escLone => Sys2Proof.Machine.execEscLone s
  | .literal x => Sys2Proof.Machine.execLiteral x s

end Sys2Proof.Machine
end

