-- ==== Sys2Proof/Machine/Step.lean ====
section
/-! DEFINITION. One step of the machine: the next move of the schedule, and the instruction or continuation it leads to. -/

namespace Sys2Proof.Machine

/-- One step: what the next move leads to is answered at once, or is an instruction that runs. -/
def step (s : State) : Host.Outcome State Fault Refusal :=
  match fetch s with
  | .run i s' => exec i s'
  | .answer r => r

/-- `s` with the opcode table's word placed where the very next step runs it; a word the table does not number leaves
`s` as it is. -/
def State.withFetchWord (s : State) (nbits w : Nat) : State :=
  match tableCode nbits w with
  | some c => s.withCode c
  | none => s

end Sys2Proof.Machine
end

