-- ==== Sys2Proof/Machine/Assembler.lean ====
section
/-! DEFINITION. The host assembler syntax (spec/30_encoding.md R80): a program is a list of requests, one a line, each
`MNEMONIC operand, operand`. Defaults are resolved here, so CORE always receives every operand. -/

namespace Sys2Proof.Machine

/-- The ASCII bytes of a string (30_encoding.md R67). -/
def ascii (s : String) : Bytes := s.toList.map fun c => BitVec.ofNat 8 c.toNat

/-- An operand as it is written (R80): a number, or a byte sequence. -/
inductive Arg where
  | number (n : Nat)
  | bytes (b : Bytes)
  deriving DecidableEq, Repr

/-- A u32 operand. -/
def Arg.u32 : Arg → Option U32
  | .number n => if n < 2 ^ 32 then some (BitVec.ofNat 32 n) else none
  | .bytes _ => none

/-- A bool operand is 0 or 1 (R82). -/
def Arg.bit : Arg → Option Bool
  | .number 0 => some false
  | .number 1 => some true
  | _ => none

/-- A byte-sequence operand. -/
def Arg.seq : Arg → Option Bytes
  | .bytes b => some b
  | .number _ => none

/-- The instruction of a mnemonic of R65 with its operands; the defaults are those of R80, and every other operand is
required. -/
def assemble (mnemonic : Bytes) (args : List Arg) : Option Instr :=
  if mnemonic = ascii "ENCODE_FRAME" then
    match args with | [p] => p.seq.map .encodeFrame | _ => none
  else if mnemonic = ascii "DECODE_FRAME" then
    match args with | [b] => b.seq.map .decodeFrame | _ => none
  else if mnemonic = ascii "READ" then
    match args with
    | [] => some (readOf none none)
    | [t] => t.u32.map fun t => readOf (some t) none
    | [t, m] => t.u32.bind fun t => m.u32.map fun m => readOf (some t) (some m)
    | _ => none
  else if mnemonic = ascii "READ_RAW" then
    match args with
    | [] => some (readRawOf none)
    | [t] => t.u32.map fun t => readRawOf (some t)
    | _ => none
  else if mnemonic = ascii "WRITE_FRAME" then
    match args with | [p] => p.seq.map .writeFrame | _ => none
  else if mnemonic = ascii "CLASSIC_RESET" then
    match args with
    | [] => some (classicResetOf none)
    | [d] => d.u32.map fun d => classicResetOf (some d)
    | _ => none
  else if mnemonic = ascii "USB_JTAG_SERIAL_RESET" then
    match args with | [] => some .usbJtagSerialReset | _ => none
  else if mnemonic = ascii "HARD_RESET" then
    match args with | [g] => g.bit.map .hardReset | _ => none
  else if mnemonic = ascii "CUSTOM_RESET" then
    match args with | [q] => q.seq.map .customReset | _ => none
  else if mnemonic = ascii "VALIDATE_CUSTOM_RESET_SEQUENCE" then
    match args with | [q] => q.seq.map .validateCustomResetSequence | _ => none
  else if mnemonic = ascii "SET_FRAMING" then
    match args with | [e] => e.bit.map .setFraming | _ => none
  else if mnemonic = ascii "NOTIFY_CONNECT" then
    match args with | [] => some .notifyConnect | _ => none
  else none

/-! ### The text of a line (log 17) -/

/-- Cut at a separator that stands outside quotes and brackets. -/
def splitOutside (sep : Byte) (quoted bracketed : Bool) : Bytes → List Bytes
  | [] => [[]]
  | b :: bs =>
    if b = sep && !quoted && !bracketed then [] :: splitOutside sep quoted bracketed bs
    else
      let quoted' := if b = 0x22 && !bracketed then !quoted else quoted
      let bracketed' :=
        if quoted then bracketed else if b = 0x5B then true else if b = 0x5D then false else bracketed
      match splitOutside sep quoted' bracketed' bs with
      | t :: ts => (b :: t) :: ts
      | [] => [[b]]

/-- Spaces at both ends taken off. -/
def trim (b : Bytes) : Bytes :=
  ((b.dropWhile (· == 0x20)).reverse.dropWhile (· == 0x20)).reverse

/-- The value of a hexadecimal digit. -/
def hexDigit (b : Byte) : Option Nat :=
  if isDigit b then some (b.toNat - 0x30)
  else if (0x41 : Byte) ≤ b && b ≤ 0x46 then some (b.toNat - 0x41 + 10)
  else if (0x61 : Byte) ≤ b && b ≤ 0x66 then some (b.toNat - 0x61 + 10)
  else none

/-- A byte written `0xNN`. -/
def hexByte (b : Bytes) : Option Byte :=
  match b with
  | [0x30, 0x78, h, l] => (hexDigit h).bind fun h => (hexDigit l).map fun l => BitVec.ofNat 8 (16 * h + l)
  | _ => none

/-- One written operand: a decimal number, a list of hexadecimal bytes `[0x01, 0xC0]`, or a quoted string. That a quoted
string may hold every byte but a double quote, a newline or a byte above 0x7F as well, is a DESIGN CHOICE (log 17). -/
def parseArg (b : Bytes) : Option Arg :=
  match b with
  | [] => none
  | c :: cs =>
    if c = 0x22 then
      match cs.reverse with
      | 0x22 :: body => if body.contains 0x22 then none else some (.bytes body.reverse)
      | _ => none
    else if c = 0x5B then
      match cs.reverse with
      | 0x5D :: body =>
        if trim body = [] then some (.bytes [])
        else ((splitOutside 0x2C false false body.reverse).mapM fun t => hexByte (trim t)).map .bytes
      | _ => none
    else if b.all isDigit then some (.number (decimalValue b))
    else none

/-- The request of one program line. -/
def assembleLine (line : Bytes) : Option Request :=
  let text := trim line
  let mnemonic := text.takeWhile (· != 0x20)
  let operands := trim (text.dropWhile (· != 0x20))
  let args := if operands = [] then some [] else (splitOutside 0x2C false false operands).mapM fun t => parseArg (trim t)
  (args.bind (assemble mnemonic)).bind fun i =>
    match encode i with
    | .request r => some r
    | .token _ | .slip _ => none

/-- A host program: one request a line. That a newline inside quotes or brackets does not end a line, and that a program
has no blank line, is a DESIGN CHOICE (log 17). -/
def assembleProgram (text : Bytes) : Option (List Request) :=
  (splitOutside 0x0A false false text).mapM assembleLine

end Sys2Proof.Machine
end

