-- ==== Sys2Proof/Safety.lean ====
section
/-! DEFINITION. What statements are about: runs, the events and commands of a history, the part of a state that a
rule may read, the invariant, and which runs are runs of the hardware. -/

namespace Sys2Proof.Machine

/-! ### Runs -/

/-- `k` steps of the machine. -/
def run (k : Nat) (s : State) : Result := Host.Core.run Sys2Proof.core k s

/-- A run with the refusal mark set is not a run of the hardware, and no claim may count it (60_exceptions.md R170). -/
abbrev State.isHardware (s : State) : Bool := !s.refusalMark

/-- Whether the next `k` moves are on the schedule and none of them is a block reset. -/
def State.noResetFor (s : State) (k : Nat) : Prop :=
  k ≤ s.moves.length ∧ Move.blockReset ∉ s.moves.take k

/-- Whether none of the next `k` moves is a request. HOST issues none while an operation is active (30_encoding.md R63). -/
def State.noRequestFor (s : State) (k : Nat) : Prop := ∀ r, Move.request r ∉ s.moves.take k

/-- How many of the next `k` moves are CLOCK ticks. -/
def State.ticksIn (s : State) (k : Nat) : Nat := (s.moves.take k).countP (· == .tick)

/-! ### Reading a history (00_scope.md R12) -/

/-- The ResetCommand of a sequencer-command event. -/
def Event.command : Event → Option Command
  | .seqCmd c => some c
  | .isReadable _ | .readChunk _ | .isWritable _ | .write _ | .flush | .setLines _ _ | .ack _ _ => none

/-- A `Chan.*` event: a query or an action. -/
def Event.isChannel : Event → Bool
  | .isReadable _ | .readChunk _ | .isWritable _ | .write _ | .flush | .setLines _ _ => true
  | .ack _ _ | .seqCmd _ => false

/-- The bytes a query returned. -/
def Event.received : Event → Bytes
  | .readChunk (some x) => x
  | .readChunk none | .isReadable _ | .isWritable _ | .write _ | .flush | .setLines _ _ | .ack _ _ | .seqCmd _ => []

/-- The sequencer-command events, in order. -/
def commands (h : List Event) : List Command := h.filterMap Event.command

/-- The channel queries and actions, in order. -/
def channelEvents (h : List Event) : List Event := h.filter Event.isChannel

/-- All bytes that `read_chunk` returned, in order. -/
def receivedBytes (h : List Event) : Bytes := h.flatMap Event.received

/-- The `set_lines` actions that a list of commands issues when PEND_DTR and PEND_RTS hold `d` and `r` before it
(42_line_controller.md R125-R127). -/
def lineUpdates (d r : Bool) : List Command → List Event
  | [] => []
  | .setDTR v :: cs => lineUpdates v r cs
  | .setRTS v :: cs => lineUpdates d v cs
  | .commit :: cs => .setLines d r :: lineUpdates d r cs
  | .wait _ :: cs => lineUpdates d r cs

/-! ### What a rule may read -/

/-- The state without OP, TO, MIN, ERRMODE and WAIT_N, which are unspecified in IDLE (93_implementation_defined.md
U20), and without the model's own count of draws. Two states with the same `settled` agree on every other field. -/
def State.settled (s : State) : State :=
  { s with op := 0, toMs := 0, minBytes := 0, errmode := .propagate, waitN := 0, draws := 0 }

/-- `t` has the CORE registers, responses, actions issued, refusal mark and parameters of `s`: it differs at most in the event history,
CHANNEL's answers, the schedule, the draws and the stand-alone codec. -/
def SameCore (s t : State) : Prop :=
  { t with history := s.history, answers := s.answers, moves := s.moves, draws := s.draws, codec := s.codec } = s

/-- An await state: CORE takes no step in it (10_state.md R22). -/
abbrev CoreState.awaits (c : CoreState) : Prop :=
  c = .readFlushAwait ∨ c = .writeAwait ∨ c = .seqCommitAwait

/-- The moves by which a readable channel delivers the chunks of a list, each polled by CORE. -/
def pollMoves (writable : Bool) (chunks : List Bytes) : List Move :=
  chunks.flatMap fun c => [.channel ⟨true, writable, some c⟩, .core]

/-- The chunks `before ++ [last]`, appended to `start` bytes, first reach the threshold `m` with `last` (41_framed_reader.md
R105, R119). -/
def FirstReaches (m start : Nat) (before : List Bytes) (last : Bytes) : Prop :=
  (∀ q, q <+: before → q ≠ [] → start + q.flatten.length < m) ∧
    m ≤ start + (before ++ [last]).flatten.length

/-! ### The SLIP tokens of a whole byte string -/

/-- Run the SLIP tokens of `b` one after another, at most `fuel` of them. -/
def runTokens : Nat → Bytes → State → Result
  | 0, _, s => .next s
  | fuel + 1, b, s =>
    match slipToken b with
    | none => .next s
    | some (i, rest) =>
      match exec i s with
      | .next s' => runTokens fuel rest s'
      | .fault r => .fault r
      | .refused r => .refused r

/-! ### The invariant -/

/-- A sequence is running (43_reset_sequencer.md R133). -/
abbrev State.sequencing (s : State) : Prop :=
  s.state = .seqRun ∨ s.state = .seqWait ∨ s.state = .seqCommitAwait

/-- The relations between registers that every step keeps. -/
structure Inv (s : State) : Prop where
  /-- N = len(SEQ) (10_state.md R20). -/
  seqLength : s.n = s.seq.length
  /-- IDX never exceeds N (10_state.md R30). -/
  idxBound : s.idx ≤ s.n
  /-- Every Wait in SEQ has a duration greater than 0 (30_encoding.md R66). -/
  seqWf : ∀ c ∈ s.seq, c.wf = true
  /-- SEQ_WAIT executes the Wait at IDX, and WAIT_N is its duration (43_reset_sequencer.md R135). -/
  waiting : s.state = .seqWait → s.seq[s.idx]? = some (.wait s.waitN)
  /-- SEQ_COMMIT_AWAIT executes the Commit at IDX (42_line_controller.md R127). -/
  committing : s.state = .seqCommitAwait → s.seq[s.idx]? = some .commit
  /-- ACC lives for one READ: outside READ_POLL it is empty (10_state.md R24, R41). -/
  accEmpty : s.state ≠ .readPoll → s.acc = []
  /-- While READ or READ_RAW polls, LEFTOVER is empty (10_state.md R21, 41_framed_reader.md R111). -/
  pollingLeftover : s.state = .readPoll ∨ s.state = .rawPoll → s.leftover = []
  /-- OP is the active operation's opcode (10_state.md R23). -/
  opRead : s.state = .readPoll ∨ s.state = .readFlushAwait → s.op = 0x03
  opReadRaw : s.state = .rawPoll → s.op = 0x04
  opWrite : s.state = .writeAwait → s.op = 0x05
  opSequence : s.sequencing → s.op = 0x06 ∨ s.op = 0x07 ∨ s.op = 0x08 ∨ s.op = 0x09
  /-- ERRMODE is WRAP for CUSTOM_RESET and PROPAGATE for the built-in strategies (10_state.md R29). -/
  errmodeOf : s.sequencing → (s.errmode = .wrap ↔ s.op = 0x09)
  /-- Only a READ with a deadline awaits a flush (60_exceptions.md R166). -/
  flushDeadline : s.state = .readFlushAwait → s.toMs ≠ 0
  /-- A finite BUF_CAP bounds ACC and LEFTOVER (10_state.md R36). -/
  capacity : within s.params.bufCap s.acc.length = true ∧ within s.params.bufCap s.leftover.length = true

end Sys2Proof.Machine
end

