-- ==== Sys2Proof/Certificates/Slice0/Obligations.lean ====
section
/-! DEFINITION. The statements for the provers, from the numbered rules of spec/. A result is stated by its whole next
state: either field by field on the state before, so that every field not named is unchanged, or on `settled`, which leaves
out only the five registers that are unspecified in IDLE (log 9) and the model's count of draws. The fields answers, issued,
moves, codec and draws that statements speak of are the model's own (logs 6, 7, 8, 14), as is the form of the history and of
the responses (log 19). -/

open Sys2Proof Sys2Proof.Machine

/-! ### Encodings -/

/-- Codes written out from 30_encoding.md R65, R70-R74 and R62 decode to the instructions they stand for. -/
def Obligations.WrittenCodesDecode : Prop :=
  decode false (.request ⟨0x03, [.u32 100, .u32 4]⟩) = .ok (.read 100 4) ∧
  decode false (.request ⟨0x08, [.bool true]⟩) = .ok (.hardReset true) ∧
  decode false (.request ⟨0x0D, []⟩) = .ok (.reserved 0x0D) ∧
  decode false (.token [0x44, 0x31]) = .ok (.setDTR true) ∧
  decode false (.token [0x57, 0x30, 0x30, 0x37]) = .ok (.wait 7) ∧
  decode false (.token [0x53, 0x78]) = .ok .commit ∧
  decode false (.slip [0xDB, 0xDC]) = .ok .escEnd ∧
  decode false (.slip [0xDB]) = .ok .escLone ∧
  decode false (.slip [0xC0]) = .ok .slipEnd

/-- Decoding the code of a well-formed instruction gives it back, in every class and for every operand. -/
def Obligations.DecodeOfEncodeIsTheInstruction : Prop :=
  ∀ (strict : Bool) (i : Instr), i.wf = true → decode strict (encode i) = .ok i

/-- Parsing the printed form of a non-empty list gives the list: the print law of 43_reset_sequencer.md R146, an inference the
spec marks as its own ("derived: from rule R145 and 30_encoding.md rule R79"). -/
def Obligations.ParseOfPrintIsTheList : Prop :=
  ∀ (strict : Bool) (cs : List Command), cs ≠ [] → (∀ c ∈ cs, c.wf = true) → parse strict (print cs) = some cs

/-- 30_encoding.md R69. -/
def Obligations.StringIsCutAtEveryBar : Prop :=
  (∀ s : Bytes, (splitBars s).length = s.count 0x7C + 1 ∧ (∀ t ∈ splitBars s, 0x7C ∉ t) ∧
    List.intercalate [0x7C] (splitBars s) = s) ∧
  (∀ strict : Bool, decodeToken strict [] = .error .emptyToken) ∧
  (∀ strict : Bool, valid strict (ascii "") = false ∧ valid strict (ascii "|D0") = false ∧
    valid strict (ascii "D0|") = false ∧ valid strict (ascii "D0||S") = false)

/-- 30_encoding.md R70: a `D` or `R` token is valid exactly when its argument is the one byte `0` or `1`. -/
def Obligations.BitTokenIsExactlyOneDigit : Prop :=
  ∀ (strict : Bool) (arg : Bytes) (c : Command),
    (decodeToken strict (0x44 :: arg) = .ok c ↔
      (arg = [0x30] ∧ c = .setDTR false) ∨ (arg = [0x31] ∧ c = .setDTR true)) ∧
    (decodeToken strict (0x52 :: arg) = .ok c ↔
      (arg = [0x30] ∧ c = .setRTS false) ∨ (arg = [0x31] ∧ c = .setRTS true))

/-- 30_encoding.md R71 and R73: which `W` tokens are valid, and what they denote. -/
def Obligations.WaitTokenIsDigitsInRange : Prop :=
  ∀ (strict : Bool) (ds : Bytes) (c : Command),
    decodeToken strict (0x57 :: ds) = .ok c ↔
      1 ≤ ds.length ∧ (∀ d ∈ ds, (0x30 : Byte) ≤ d ∧ d ≤ 0x39) ∧
        1 ≤ decimalValue ds ∧ decimalValue ds ≤ 2 ^ 32 - 1 ∧
        ∃ n : U32, c = .wait n ∧ n.toNat = decimalValue ds

/-- 30_encoding.md R72: the decimal value is the exact sum, most-significant digit first; leading zeros are allowed, and a
sign, a point, a prefix and a space are no digits. -/
def Obligations.DecimalValueIsThePositionalSum : Prop :=
  (∀ d : Bytes, decimalValue d =
    ∑ j ∈ Finset.range d.length, ((d.getD j 0).toNat - 0x30) * 10 ^ (d.length - 1 - j)) ∧
  ∀ strict : Bool, decodeToken strict (ascii "W007") = .ok (.wait 7) ∧
    ∀ s ∈ ["W-5", "W+5", "W5.0", "W0x10", "W 5"], valid strict (ascii s) = false

/-- 30_encoding.md R74: which `S` tokens are valid in each setting of S_ARG_STRICT; each denotes Commit. -/
def Obligations.CommitTokenTail : Prop :=
  ∀ (strict : Bool) (tail : Bytes) (c : Command),
    decodeToken strict (0x53 :: tail) = .ok c ↔ c = .commit ∧ (strict = true → tail = [])

/-- 30_encoding.md R75, 43_reset_sequencer.md R145: a string parses exactly when every token does, to their commands in
order; a token whose first byte is no command code is invalid. -/
def Obligations.OneInvalidTokenInvalidatesTheString : Prop :=
  ∀ strict : Bool,
    (∀ (s : Bytes) (cs : List Command), parse strict s = some cs ↔
      List.Forall₂ (fun t c => decodeToken strict t = .ok c) (splitBars s) cs) ∧
    (∀ s : Bytes, valid strict s = true ↔ ∀ t ∈ splitBars s, ∃ c, decodeToken strict t = .ok c) ∧
    (∀ (b : Byte) (arg : Bytes), b ≠ 0x44 → b ≠ 0x52 → b ≠ 0x57 → b ≠ 0x53 →
      ∀ c, decodeToken strict (b :: arg) ≠ .ok c)

/-- 30_encoding.md R80: what the assembler gives for omitted operands and for the two spellings of a byte sequence. The line
`READ 5` rests on the model's choice as well (log 17): the operands omitted are the last ones, and a u32 is written in
decimal. -/
def Obligations.AssemblerResolvesDefaults : Prop :=
  assembleLine (ascii "READ") = some ⟨0x03, [.u32 0, .u32 12]⟩ ∧
  assembleLine (ascii "READ 5") = some ⟨0x03, [.u32 5, .u32 12]⟩ ∧
  assembleLine (ascii "READ_RAW") = some ⟨0x04, [.u32 0]⟩ ∧
  assembleLine (ascii "CLASSIC_RESET") = some ⟨0x06, [.u32 50]⟩ ∧
  assembleLine (ascii "HARD_RESET") = none ∧
  assembleLine (ascii "WRITE_FRAME [0x01, 0xC0]") = some ⟨0x05, [.bytes [0x01, 0xC0]]⟩ ∧
  assembleLine (ascii "CUSTOM_RESET \"D0|S\"") = some ⟨0x09, [.bytes [0x44, 0x30, 0x7C, 0x53]]⟩

/-! ### The SLIP codec -/

/-- 40_slip_codec.md R85, R86. -/
def Obligations.EncodeEscapesEachByte : Prop :=
  esc 0xC0 = [0xDB, 0xDC] ∧ esc 0xDB = [0xDB, 0xDD] ∧
  (∀ x : Byte, x ≠ 0xC0 → x ≠ 0xDB → esc x = [x]) ∧
  ∀ p : Bytes, slipEncode p = [0xC0] ++ p.flatMap esc ++ [0xC0]

/-- 40_slip_codec.md R87, the encode length law. -/
def Obligations.EncodeLengthLaw : Prop :=
  ∀ p : Bytes, (slipEncode p).length = 2 + p.length + p.countP (fun x => x == 0xC0 || x == 0xDB)

/-- 40_slip_codec.md R88, by least indices as the pseudocode has it. -/
def Obligations.DecodeTakesTheFirstCompleteFrame : Prop :=
  ∀ b : Bytes,
    ((∀ i : Nat, b[i]? ≠ some (0xC0 : Byte)) → slipDecode b = (none, b)) ∧
    (∀ s : Nat, b[s]? = some (0xC0 : Byte) → (∀ i : Nat, i < s → b[i]? ≠ some (0xC0 : Byte)) →
      ((∀ j : Nat, s < j → b[j]? ≠ some (0xC0 : Byte)) → slipDecode b = (none, b)) ∧
      (∀ e : Nat, s < e → b[e]? = some (0xC0 : Byte) → (∀ j : Nat, s < j → j < e → b[j]? ≠ some (0xC0 : Byte)) →
        slipDecode b = (some (unescape ((b.drop (s + 1)).take (e - (s + 1)))), b.drop (e + 1))))

/-- 40_slip_codec.md R89. -/
def Obligations.UnescapeReversesPairsAndKeepsLoneEscapes : Prop :=
  unescape [] = [] ∧
  (∀ rest, unescape (0xDB :: 0xDC :: rest) = 0xC0 :: unescape rest) ∧
  (∀ rest, unescape (0xDB :: 0xDD :: rest) = 0xDB :: unescape rest) ∧
  (∀ b rest, ¬ (b = 0xDB ∧ (rest.head? = some 0xDC ∨ rest.head? = some 0xDD)) →
    unescape (b :: rest) = b :: unescape rest) ∧
  (∀ body, (unescape body).length ≤ body.length) ∧
  (∀ body : Bytes, (unescape body).length = body.length ↔
    ¬ ∃ i : Nat, body[i]? = some (0xDB : Byte) ∧ (body[i + 1]? = some (0xDC : Byte) ∨ body[i + 1]? = some (0xDD : Byte)))

/-- The round trip, with any bytes after the frame: 40_slip_codec.md R95, an inference the spec marks as its own ("derived: from
rule R86, rule R88 and rule R89"). -/
def Obligations.SlipRoundTrip : Prop :=
  ∀ p : Bytes, slipDecode (slipEncode p) = (some p, []) ∧
    ∀ r : Bytes, slipDecode (slipEncode p ++ r) = (some p, r)

/-- Escaping completeness: 40_slip_codec.md R96, an inference the spec marks as its own ("derived: from rule R85 and rule
R86"). -/
def Obligations.EncodedFrameHasMarkersOnlyAtItsEnds : Prop :=
  ∀ (p : Bytes) (i : Nat),
    (slipEncode p)[i]? = some (0xC0 : Byte) ↔ i = 0 ∨ i = (slipEncode p).length - 1

/-- Bytes before the start marker are dropped with a frame and kept without one: 40_slip_codec.md R94, an inference the spec
marks as its own ("derived: from rule R88"). -/
def Obligations.BytesBeforeTheStartMarker : Prop :=
  (∀ g b : Bytes, 0xC0 ∉ g →
    (∀ f r, slipDecode (0xC0 :: b) = (some f, r) → slipDecode (g ++ 0xC0 :: b) = (some f, r)) ∧
    ((slipDecode (0xC0 :: b)).1 = none → slipDecode (g ++ 0xC0 :: b) = (none, g ++ 0xC0 :: b))) ∧
  slipDecode [0x11, 0x22, 0xC0, 0x33, 0xC0] = (some [0x33], []) ∧
  slipDecode [0x11, 0x22, 0xC0, 0x33] = (none, [0x11, 0x22, 0xC0, 0x33])

/-- Adjacent markers are an empty frame, and a delimiter is never shared: 40_slip_codec.md R93, R97, the latter an inference
the spec marks as its own ("derived: from rule R88 and rule R94"). -/
def Obligations.DelimitersAreNotShared : Prop :=
  (∀ r : Bytes, slipDecode (0xC0 :: 0xC0 :: r) = (some [], r)) ∧
  (∀ b1 b2 b3 : Bytes, 0xC0 ∉ b1 → 0xC0 ∉ b2 → 0xC0 ∉ b3 →
    slipDecode ([0xC0] ++ b1 ++ [0xC0] ++ b2 ++ [0xC0]) = (some (unescape b1), b2 ++ [0xC0]) ∧
    slipDecode (b2 ++ [0xC0]) = (none, b2 ++ [0xC0]) ∧
    slipDecode (b2 ++ [0xC0] ++ b3 ++ [0xC0]) = (some (unescape b3), []) ∧
    slipDecode ([0xC0, 0xC0] ++ b2 ++ [0xC0]) = (some [], b2 ++ [0xC0])) ∧
  (∀ p1 p2 : Bytes, slipDecode (slipEncode p1 ++ slipEncode p2) = (some p1, slipEncode p2) ∧
    slipDecode (slipEncode p2) = (some p2, []))

/-- 40_slip_codec.md R98: "no frame" returns the buffer unchanged, and says the same again. -/
def Obligations.NoFrameReturnsTheBufferUnchanged : Prop :=
  (∀ b r : Bytes, slipDecode b = (none, r) → r = b ∧ slipDecode r = (none, r)) ∧
  (∀ b : Bytes, (slipDecode b).1 = none ↔ b.count 0xC0 ≤ 1)

/-- The meanings of the SLIP tokens, run one after another over a byte string, find the frames that `decode` finds
(the stand-alone codec is the model's own: log 14). -/
def Obligations.TokenMeaningsRefineDecode : Prop :=
  ∀ (b : Bytes) (s : State), s.codec.inFrame = false →
    (∀ f r, slipDecode b = (some f, r) →
      runTokens b.length b s = runTokens r.length r
        { s with codec := { s.codec with body := [], frames := s.codec.frames ++ [f] } }) ∧
    ((slipDecode b).1 = none →
      ∃ c : Codec, runTokens b.length b s = .next { s with codec := c } ∧ c.frames = s.codec.frames)

/-- Each SLIP token completes, on the stand-alone codec only (40_slip_codec.md R88, R89; log 14). -/
def Obligations.SlipTokensComplete : Prop :=
  ∀ s : State,
    (s.codec.inFrame = false →
      exec .slipEnd s = .next { s with codec := ⟨s.codec.input, true, [], s.codec.frames⟩ } ∧
      exec .escEnd s = .next s ∧ exec .escEsc s = .next s ∧ exec .escLone s = .next s ∧
      ∀ x, exec (.literal x) s = .next s) ∧
    (s.codec.inFrame = true →
      exec .slipEnd s = .next { s with codec := ⟨s.codec.input, false, [], s.codec.frames ++ [s.codec.body]⟩ } ∧
      exec .escEnd s = .next { s with codec := { s.codec with body := s.codec.body ++ [0xC0] } } ∧
      exec .escEsc s = .next { s with codec := { s.codec with body := s.codec.body ++ [0xDB] } } ∧
      exec .escLone s = .next { s with codec := { s.codec with body := s.codec.body ++ [0xDB] } } ∧
      ∀ x, exec (.literal x) s = .next { s with codec := { s.codec with body := s.codec.body ++ [x] } })

/-- 40_slip_codec.md R91. -/
def Obligations.EncodeFrameAnswersTheEncodedFrame : Prop :=
  ∀ (payload : Bytes) (s : State), (∀ c, s.params.bufCap = some c → payload.length ≤ c) →
    ∃ t, exec (.encodeFrame payload) s = .next t ∧
      t.settled = { s.settled with
        state := .idle, responses := s.responses ++ [⟨.ok, .bytes, false, slipEncode payload, []⟩] }

/-- 40_slip_codec.md R92. -/
def Obligations.DecodeFrameAnswersTheDecodeResult : Prop :=
  ∀ (buffer : Bytes) (s : State), (∀ c, s.params.bufCap = some c → buffer.length ≤ c) →
    (∀ x r, slipDecode buffer = (some x, r) →
      ∃ t, exec (.decodeFrame buffer) s = .next t ∧
        t.settled = { s.settled with
          state := .idle, responses := s.responses ++ [⟨.ok, .decoded, true, x, r⟩] }) ∧
    (∀ r, slipDecode buffer = (none, r) →
      ∃ t, exec (.decodeFrame buffer) s = .next t ∧
        t.settled = { s.settled with
          state := .idle, responses := s.responses ++ [⟨.ok, .decoded, false, [], buffer⟩] })

/-- 60_exceptions.md R182: an operand beyond a finite capacity faults, and with unbounded capacities no instruction does. -/
def Obligations.OnlyAFiniteCapacityOverflows : Prop :=
  (∀ (b : Bytes) (s : State) (c : Nat), s.params.bufCap = some c → c < b.length →
    exec (.encodeFrame b) s = .fault .bufferOverflow ∧ exec (.decodeFrame b) s = .fault .bufferOverflow ∧
    exec (.writeFrame b) s = .fault .bufferOverflow) ∧
  (∀ (q : Bytes) (s : State) (c : Nat), s.params.seqMaxLen = some c → c < q.length →
    exec (.customReset q) s = .fault .bufferOverflow ∧
    exec (.validateCustomResetSequence q) s = .fault .bufferOverflow) ∧
  (∀ (i : Instr) (s : State), s.params.bufCap = none → s.params.seqMaxLen = none → ∃ t, exec i s = .next t)

/-! ### The framed reader and writer -/

/-- 41_framed_reader.md R101, R102: READ's acceptance step, by its fast path or into its loop. -/
def Obligations.ReadAcceptance : Prop :=
  ∀ (timeoutMs minBytes : U32) (s : State),
    (∀ x r, s.framingEn = true → slipDecode s.leftover = (some x, r) →
      ∃ t, exec (.read timeoutMs minBytes) s = .next t ∧
        t.settled = { s.settled with
          leftover := r, state := .idle, responses := s.responses ++ [⟨.ok, .frame, false, x, []⟩] }) ∧
    (s.framingEn = false ∨ (slipDecode s.leftover).1 = none →
      exec (.read timeoutMs minBytes) s = .next { s with
        op := 0x03, toMs := timeoutMs, minBytes := minBytes
        acc := s.leftover, leftover := [], tmrRd := 0, state := .readPoll })

/-- 41_framed_reader.md R104, R105: READ's poll before the threshold is reached. -/
def Obligations.ReadPollBelowTheThreshold : Prop :=
  ∀ (s : State) (ms : List Move), s.state = .readPoll → s.moves = .core :: ms →
    ¬ (0 < s.toMs ∧ s.toMs ≤ s.tmrRd) →
    (s.answers.readable = false →
      ∃ t, step s = .next t ∧ t.settled = { s.settled with
        moves := ms, acc := [], state := .idle, history := s.history ++ [.isReadable false]
        responses := s.responses ++ [⟨.ok, .raw, false, s.acc, []⟩] }) ∧
    (s.answers.readable = true → s.answers.chunk = none →
      step s = .next { s with
        moves := ms, history := s.history ++ [.isReadable true, .readChunk none] }) ∧
    (∀ x, s.answers.readable = true → s.answers.chunk = some x →
      (∀ c, s.params.bufCap = some c → c < s.acc.length + x.length → step s = .fault .bufferOverflow) ∧
      ((∀ c, s.params.bufCap = some c → s.acc.length + x.length ≤ c) →
        (s.acc ++ x).length < s.minBytes.toNat →
        step s = .next { s with
          moves := ms, acc := s.acc ++ x, answers := { s.answers with chunk := none }
          history := s.history ++ [.isReadable true, .readChunk (some x)] }))

/-- 41_framed_reader.md R106, R107: READ's finish, in the step of the append that reaches MIN. -/
def Obligations.ReadFinishesWhenMinIsReached : Prop :=
  ∀ (s : State) (ms : List Move) (x : Bytes), s.state = .readPoll → s.moves = .core :: ms →
    ¬ (0 < s.toMs ∧ s.toMs ≤ s.tmrRd) → s.answers.readable = true → s.answers.chunk = some x →
    (∀ c, s.params.bufCap = some c → s.acc.length + x.length ≤ c) →
    s.minBytes.toNat ≤ (s.acc ++ x).length →
    (∀ f r, s.framingEn = true → slipDecode (s.acc ++ x) = (some f, r) →
      ∃ t, step s = .next t ∧ t.settled = { s.settled with
        moves := ms, acc := [], leftover := r, state := .idle, answers := { s.answers with chunk := none }
        history := s.history ++ [.isReadable true, .readChunk (some x)]
        responses := s.responses ++ [⟨.ok, .frame, false, f, []⟩] }) ∧
    (s.framingEn = true → (slipDecode (s.acc ++ x)).1 = none →
      ∃ t, step s = .next t ∧ t.settled = { s.settled with
        moves := ms, acc := [], leftover := [], state := .idle, answers := { s.answers with chunk := none }
        history := s.history ++ [.isReadable true, .readChunk (some x)]
        responses := s.responses ++ [⟨.ok, .raw, false, s.acc ++ x, []⟩] }) ∧
    (s.framingEn = false →
      ∃ t, step s = .next t ∧ t.settled = { s.settled with
        moves := ms, acc := [], state := .idle, answers := { s.answers with chunk := none }
        history := s.history ++ [.isReadable true, .readChunk (some x)]
        responses := s.responses ++ [⟨.ok, .raw, false, s.acc ++ x, []⟩] })

/-- 41_framed_reader.md R103, R108: READ's deadline comes before any channel query of the step; the bytes are kept, one
`flush` is issued, and the Timeout is reported when it is acknowledged, Ok or Err, and not before (HOST has no request to
issue then: 30_encoding.md R63). -/
def Obligations.ReadTimeoutKeepsBytesAndFlushes : Prop :=
  (∀ (s : State) (ms : List Move), s.state = .readPoll → s.moves = .core :: ms →
    0 < s.toMs → s.toMs ≤ s.tmrRd →
    step s = .next { s with
      moves := ms, leftover := s.acc, acc := [], state := .readFlushAwait
      history := s.history ++ [.flush], issued := s.issued + 1 }) ∧
  (∀ (s : State) (ms : List Move) (r : Ack), s.state = .readFlushAwait → s.moves = .ack s.issued r :: ms →
    ∃ t, step s = .next t ∧ t.settled = { s.settled with
      moves := ms, state := .idle, history := s.history ++ [.ack s.issued r]
      responses := s.responses ++ [⟨.timeout, .none, false, [], []⟩] }) ∧
  (∀ (s : State) (m : Move) (ms : List Move), s.state = .readFlushAwait → s.moves = m :: ms →
    m ≠ .blockReset → (∀ r, m ≠ .ack s.issued r) → (∀ r, m ≠ .request r) →
    ∃ t, step s = .next t ∧ t.state = .readFlushAwait ∧ t.responses = s.responses ∧ t.leftover = s.leftover ∧
      channelEvents t.history = channelEvents s.history)

/-- Over a whole READ, whatever the schedule, every byte is accounted for: the old LEFTOVER and every chunk polled, in order,
are all kept after a Timeout, all answered in a RAW answer, or are what `decode` finds the answered frame and the kept remainder
in. A frame's answer drops the bytes that `decode` drops: those before its start marker (40_slip_codec.md R94). It formalises
41_framed_reader.md R118 ("derived: from rules R102, R103 and R108") and, of R120 ("derived: from rules R104-R108 and
R111-R112"), what it says of one READ's answer and LEFTOVER; both are inferences the spec marks as its own. The schedule is the
model's choice (log 6). -/
def Obligations.ReadAccountsForEveryByte : Prop :=
  ∀ (timeoutMs minBytes : U32) (s0 s t u : State) (k : Nat) (r : Response),
    exec (.read timeoutMs minBytes) s0 = .next s → s.state = .readPoll → s.noResetFor (k + 1) →
    run k s = .next t → t.responses = s.responses → step t = .next u → u.responses = s.responses ++ [r] →
    (r = ⟨.timeout, .none, false, [], []⟩ ∧
        u.leftover = s0.leftover ++ receivedBytes (u.history.drop s0.history.length)) ∨
    (r = ⟨.ok, .raw, false, s0.leftover ++ receivedBytes (u.history.drop s0.history.length), []⟩ ∧
        u.leftover = []) ∨
    ∃ f rest, slipDecode (s0.leftover ++ receivedBytes (u.history.drop s0.history.length)) = (some f, rest) ∧
      r = ⟨.ok, .frame, false, f, []⟩ ∧ u.leftover = rest

/-- 60_exceptions.md R166, 70_reset_and_hazards.md R194: no schedule makes READ or READ_RAW time out before TO ticks have
passed, and none makes it time out when TO = 0. -/
def Obligations.NoTimeoutBeforeTheDeadline : Prop :=
  ∀ (s t u : State) (k : Nat) (r : Response),
    s.state = .readPoll ∨ s.state = .rawPoll → s.tmrRd = 0 → s.noResetFor (k + 1) →
    run k s = .next t → t.responses = s.responses → (s.toMs = 0 ∨ s.ticksIn k < s.toMs.toNat) →
    t.state = s.state ∧
    (step t = .next u → u.state ≠ .readFlushAwait ∧
      (u.responses = s.responses ++ [r] → r.status ≠ .timeout))

/-- 41_framed_reader.md R119, an inference the spec marks as its own ("derived: from rules R101-R106"), over the model's
schedule (log 6): the two READs of two frames that arrive in chunks, under its precondition: the first READ
reaches MIN with all of the first frame; then either the second frame is in LEFTOVER too, or the second READ reaches MIN
with all of it. -/
def Obligations.TwoFramesInChunksAreReadInOrder : Prop :=
  ∀ (p1 p2 kept : Bytes) (m : U32) (s : State) (w : Bool) (before1 before2 : List Bytes) (last1 last2 : Bytes),
    s.state = .idle → s.framingEn = true → s.leftover = [] → s.params.bufCap = none →
    (before1 ++ [last1]).flatten = slipEncode p1 ++ kept → FirstReaches m.toNat 0 before1 last1 →
    (kept = slipEncode p2 →
      s.moves = .request ⟨0x03, [.u32 0, .u32 m]⟩ :: pollMoves w (before1 ++ [last1]) ++
        [.request ⟨0x03, [.u32 0, .u32 m]⟩] →
      ∃ t, run s.moves.length s = .next t ∧ t.leftover = [] ∧ t.state = .idle ∧
        t.responses = s.responses ++ [⟨.ok, .frame, false, p1, []⟩, ⟨.ok, .frame, false, p2, []⟩]) ∧
    (kept.length < (slipEncode p2).length → kept ++ (before2 ++ [last2]).flatten = slipEncode p2 →
      FirstReaches m.toNat kept.length before2 last2 →
      s.moves = .request ⟨0x03, [.u32 0, .u32 m]⟩ :: pollMoves w (before1 ++ [last1]) ++
        .request ⟨0x03, [.u32 0, .u32 m]⟩ :: pollMoves w (before2 ++ [last2]) →
      ∃ t, run s.moves.length s = .next t ∧ t.leftover = [] ∧ t.state = .idle ∧
        t.responses = s.responses ++ [⟨.ok, .frame, false, p1, []⟩, ⟨.ok, .frame, false, p2, []⟩])

/-- 41_framed_reader.md R111: READ_RAW hands over a LEFTOVER that is not empty, and else polls. -/
def Obligations.ReadRawAcceptance : Prop :=
  ∀ (timeoutMs : U32) (s : State),
    (0 < s.leftover.length →
      ∃ t, exec (.readRaw timeoutMs) s = .next t ∧ t.settled = { s.settled with
        leftover := [], state := .idle, responses := s.responses ++ [⟨.ok, .raw, false, s.leftover, []⟩] }) ∧
    (s.leftover = [] →
      exec (.readRaw timeoutMs) s = .next { s with
        op := 0x04, toMs := timeoutMs, tmrRd := 0, state := .rawPoll })

/-- 41_framed_reader.md R112. -/
def Obligations.ReadRawPoll : Prop :=
  ∀ (s : State) (ms : List Move), s.state = .rawPoll → s.moves = .core :: ms →
    (0 < s.toMs → s.toMs ≤ s.tmrRd →
      ∃ t, step s = .next t ∧ t.settled = { s.settled with
        moves := ms, state := .idle, responses := s.responses ++ [⟨.timeout, .none, false, [], []⟩] }) ∧
    (¬ (0 < s.toMs ∧ s.toMs ≤ s.tmrRd) → s.answers.readable = false →
      ∃ t, step s = .next t ∧ t.settled = { s.settled with
        moves := ms, state := .idle, history := s.history ++ [.isReadable false]
        responses := s.responses ++ [⟨.ok, .raw, false, [], []⟩] }) ∧
    (∀ x, ¬ (0 < s.toMs ∧ s.toMs ≤ s.tmrRd) → s.answers.readable = true → s.answers.chunk = some x → x ≠ [] →
      ∃ t, step s = .next t ∧ t.settled = { s.settled with
        moves := ms, state := .idle, answers := { s.answers with chunk := none }
        history := s.history ++ [.isReadable true, .readChunk (some x)]
        responses := s.responses ++ [⟨.ok, .raw, false, x, []⟩] }) ∧
    (¬ (0 < s.toMs ∧ s.toMs ≤ s.tmrRd) → s.answers.readable = true →
      s.answers.chunk = none ∨ s.answers.chunk = some [] →
      step s = .next { s with
        moves := ms, answers := { s.answers with chunk := none }
        history := s.history ++ [.isReadable true, .readChunk s.answers.chunk] })

/-- 41_framed_reader.md R114: one write of the whole encoded frame, or what WRITE_WHEN_UNWRITABLE says. -/
def Obligations.WriteFrameIssuesOneWrite : Prop :=
  ∀ (payload : Bytes) (s : State), (∀ c, s.params.bufCap = some c → payload.length ≤ c) →
    (s.answers.writable = true →
      exec (.writeFrame payload) s = .next { s with
        op := 0x05, state := .writeAwait, issued := s.issued + 1
        history := s.history ++ [.isWritable true, .write (slipEncode payload)] }) ∧
    (s.answers.writable = false → s.params.writeWhenUnwritable = .skipOk →
      ∃ t, exec (.writeFrame payload) s = .next t ∧ t.settled = { s.settled with
        state := .idle, history := s.history ++ [.isWritable false]
        responses := s.responses ++ [⟨.ok, .none, false, [], []⟩] }) ∧
    (s.answers.writable = false → s.params.writeWhenUnwritable = .error →
      ∃ t, exec (.writeFrame payload) s = .next t ∧ t.settled = { s.settled with
        state := .idle, history := s.history ++ [.isWritable false]
        responses := s.responses ++ [⟨.channelError, .none, false, [], []⟩] })

/-- 41_framed_reader.md R115. -/
def Obligations.WriteFrameCompletesAtItsAck : Prop :=
  ∀ (s : State) (ms : List Move) (r : Ack), s.state = .writeAwait → s.moves = .ack s.issued r :: ms →
    ∃ t, step s = .next t ∧ t.settled = { s.settled with
      moves := ms, state := .idle, history := s.history ++ [.ack s.issued r]
      responses := s.responses ++
        [⟨match r with | .ok => .ok | .err => .channelError, .none, false, [], []⟩] }

/-- 41_framed_reader.md R116, R117. -/
def Obligations.ReaderConfiguration : Prop :=
  ∀ s : State,
    (∀ enable, ∃ t, exec (.setFraming enable) s = .next t ∧ t.settled = { s.settled with
      framingEn := enable, state := .idle, responses := s.responses ++ [⟨.ok, .none, false, [], []⟩] }) ∧
    (∃ t, exec .notifyConnect s = .next t ∧ t.settled = { s.settled with
      leftover := [], state := .idle, responses := s.responses ++ [⟨.ok, .none, false, [], []⟩] })

/-! ### The line controller and the sequencer -/

/-- 42_line_controller.md R125, R126. -/
def Obligations.SetLineIsLocal : Prop :=
  ∀ (v : Bool) (s : State),
    exec (.setDTR v) s = .next { s with
      history := s.history ++ [.seqCmd (.setDTR v)], pendDtr := v, idx := s.idx + 1 } ∧
    exec (.setRTS v) s = .next { s with
      history := s.history ++ [.seqCmd (.setRTS v)], pendRts := v, idx := s.idx + 1 }

/-- 42_line_controller.md R127. -/
def Obligations.CommitSendsBothPendingLines : Prop :=
  ∀ s : State, exec .commit s = .next { s with
    history := s.history ++ [.seqCmd .commit, .setLines s.pendDtr s.pendRts]
    issued := s.issued + 1, state := .seqCommitAwait }

/-- 42_line_controller.md R128. -/
def Obligations.CommitCompletesAtItsAck : Prop :=
  ∀ (s : State) (ms : List Move), s.state = .seqCommitAwait →
    (s.moves = .ack s.issued .ok :: ms →
      step s = .next { s with
        moves := ms, history := s.history ++ [.ack s.issued .ok], idx := s.idx + 1, state := .seqRun }) ∧
    (s.moves = .ack s.issued .err :: ms →
      ∃ t, step s = .next t ∧ t.settled = { s.settled with
        moves := ms, state := .idle, history := s.history ++ [.ack s.issued .err]
        responses := s.responses ++
          [⟨match s.errmode with | .propagate => .channelError | .wrap => .invalidSequence, .none, false, [], []⟩] })

/-- 43_reset_sequencer.md R135-R137: the start of a Wait, its end, and the end of a sequence. -/
def Obligations.WaitStartsAndEnds : Prop :=
  (∀ (n : U32) (s : State), exec (.wait n) s = .next { s with
    history := s.history ++ [.seqCmd (.wait n)], waitN := n, tmrW := 0, state := .seqWait }) ∧
  (∀ (s : State) (ms : List Move), s.moves = .core :: ms →
    (s.state = .seqWait → s.waitN ≤ s.tmrW →
      step s = .next { s with moves := ms, idx := s.idx + 1, state := .seqRun }) ∧
    (s.state = .seqWait → s.tmrW < s.waitN → step s = .next { s with moves := ms }) ∧
    (s.state = .seqRun → s.idx = s.n →
      ∃ t, step s = .next t ∧ t.settled = { s.settled with
        moves := ms, state := .idle, responses := s.responses ++ [⟨.ok, .none, false, [], []⟩] }))

/-- 43_reset_sequencer.md R136, 70_reset_and_hazards.md R194: no schedule ends a Wait before WAIT_N ticks (HOST has
no request to issue then: 30_encoding.md R63). -/
def Obligations.WaitLastsAtLeastItsTicks : Prop :=
  ∀ (n : U32) (s0 s : State) (k : Nat), exec (.wait n) s0 = .next s → s.noResetFor k → s.noRequestFor k →
    s.ticksIn k < n.toNat →
    ∃ t, run k s = .next t ∧ t.state = .seqWait ∧ t.idx = s.idx ∧ t.tmrW.toNat = s.ticksIn k

/-- 43_reset_sequencer.md R133, R141-R144: the built-in strategies load their lists. -/
def Obligations.StrategiesLoadTheirLists : Prop :=
  ∀ s : State,
    (∀ d : U32, d ≠ 0 → exec (.classicReset d) s = .next { s with
      op := 0x06, idx := 0, n := 10, errmode := .propagate, state := .seqRun
      seq := [.setDTR false, .setRTS true, .commit, .wait 100, .setDTR true, .setRTS false, .commit, .wait d,
        .setDTR false, .commit] }) ∧
    (exec (.classicReset 0) s = .next { s with
      op := 0x06, idx := 0, n := 9, errmode := .propagate, state := .seqRun
      seq := [.setDTR false, .setRTS true, .commit, .wait 100, .setDTR true, .setRTS false, .commit,
        .setDTR false, .commit] }) ∧
    (exec .usbJtagSerialReset s = .next { s with
      op := 0x07, idx := 0, n := 15, errmode := .propagate, state := .seqRun
      seq := [.setRTS false, .setDTR false, .commit, .wait 100, .setDTR true, .setRTS false, .commit, .wait 100,
        .setRTS true, .setDTR false, .commit, .wait 100, .setRTS false, .setDTR false, .commit] }) ∧
    (exec (.hardReset true) s = .next { s with
      op := 0x08, idx := 0, n := 4, errmode := .propagate, state := .seqRun
      seq := [.wait 200, .setRTS false, .commit, .wait 200] }) ∧
    (exec (.hardReset false) s = .next { s with
      op := 0x08, idx := 0, n := 3, errmode := .propagate, state := .seqRun
      seq := [.wait 100, .setRTS false, .commit] })

/-- 43_reset_sequencer.md R148, R149: a valid string starts its sequence; an invalid one is a silent no-op. -/
def Obligations.CustomResetStartsOrDoesNothing : Prop :=
  ∀ (q : Bytes) (s : State), (∀ c, s.params.seqMaxLen = some c → q.length ≤ c) →
    (∀ cs, parse s.params.sArgStrict q = some cs →
      exec (.customReset q) s = .next { s with
        op := 0x09, seq := cs, n := cs.length, idx := 0, errmode := .wrap, state := .seqRun }) ∧
    (parse s.params.sArgStrict q = none →
      ∃ t, exec (.customReset q) s = .next t ∧ t.settled = { s.settled with
        state := .idle, responses := s.responses ++ [⟨.ok, .none, false, [], []⟩] })

/-- 43_reset_sequencer.md R147, with its corner cases and its examples. -/
def Obligations.ValidateAnswersValidity : Prop :=
  (∀ (q : Bytes) (s : State), (∀ c, s.params.seqMaxLen = some c → q.length ≤ c) →
    ∃ t, exec (.validateCustomResetSequence q) s = .next t ∧ t.settled = { s.settled with
      state := .idle
      responses := s.responses ++ [⟨.ok, .bool, (parse s.params.sArgStrict q).isSome, [], []⟩] }) ∧
  (∀ strict, valid strict (ascii "") = false ∧ valid strict (ascii "S") = true ∧
    valid strict (ascii "Sx") = !strict ∧ valid strict (ascii "D0|R1|S|W100") = true ∧
    valid strict (ascii "D2|S") = false ∧ valid strict (ascii "W0") = false ∧
    valid strict (ascii "X1") = false ∧ valid strict (ascii "W-5") = false)

/-- The DSL forms of the strategies print and parse to their lists: 30_encoding.md R81, an inference the spec marks as its own
("derived: from 43_reset_sequencer.md rule R138 and rule R142"). -/
def Obligations.StrategyStrings : Prop :=
  (∀ d : U32, d ≠ 0 → print (classicList d) = ascii "D0|R1|S|W100|D1|R0|S|W" ++ printU32 d ++ ascii "|D0|S") ∧
  ∀ strict,
    parse strict (ascii "D0|R1|S|W100|D1|R0|S|W50|D0|S") = some (classicList 50) ∧
    parse strict (ascii "D0|R1|S|W100|D1|R0|S|D0|S") = some (classicList 0) ∧
    parse strict (ascii "R0|D0|S|W100|D1|R0|S|W100|R1|D0|S|W100|R0|D0|S") = some usbJtagSerialList ∧
    parse strict (ascii "W200|R0|S|W200") = some (hardList true) ∧
    parse strict (ascii "W100|R0|S") = some (hardList false)

/-- 43_reset_sequencer.md R134, R137-R139, 20_memory.md R54: under every schedule without a block reset, a sequence that has
started executes its commands in list order, each once, and ends either with OK after all of them or with its error at a
Commit, after the commands up to that Commit and no other. -/
def Obligations.SequenceRunsInListOrderToItsEnd : Prop :=
  ∀ (s t u : State) (k : Nat) (r : Response),
    Inv s → s.state = .seqRun → s.idx = 0 → s.noResetFor (k + 1) →
    run k s = .next t → t.responses = s.responses → step t = .next u → u.responses = s.responses ++ [r] →
    (r = ⟨.ok, .none, false, [], []⟩ ∧ commands u.history = commands s.history ++ s.seq) ∨
    (r = ⟨commitFailure s.errmode, .none, false, [], []⟩ ∧
      ∃ j, s.seq[j]? = some .commit ∧ commands u.history = commands s.history ++ s.seq.take (j + 1))

/-- 42_line_controller.md R127 and R130, the latter an inference the spec marks as its own ("derived: from rule R127 and
43_reset_sequencer.md rule R144"): under every schedule without a block reset, the channel events of a running sequence
are exactly the `set_lines` of the commands it has executed, both lines in each. -/
def Obligations.SequenceIssuesExactlyItsLineUpdates : Prop :=
  ∀ (s t : State) (k : Nat),
    Inv s → s.state = .seqRun → s.noResetFor k → run k s = .next t → t.responses = s.responses →
    ∃ done, done <+: s.seq.drop s.idx ∧ commands t.history = commands s.history ++ done ∧
      channelEvents t.history = channelEvents s.history ++ lineUpdates s.pendDtr s.pendRts done

/-- 43_reset_sequencer.md R138 and R151, the latter an inference the spec marks as its own ("derived: from rules R142, R145 and
R148"): opcode and error mode change nothing of a running sequence but what a failed Commit
reports. -/
def Obligations.ErrorModeChangesOnlyTheReport : Prop :=
  ∀ (s t u : State) (k : Nat) (opcode : Byte) (mode : ErrMode),
    s.sequencing → s.noResetFor (k + 1) → run k s = .next t → t.responses = s.responses → step t = .next u →
    run k { s with op := opcode, errmode := mode } = .next { t with op := opcode, errmode := mode } ∧
    ∃ v, step { t with op := opcode, errmode := mode } = .next v ∧ v.history = u.history ∧
      v.state = u.state ∧ v.idx = u.idx ∧ v.pendDtr = u.pendDtr ∧ v.pendRts = u.pendRts ∧
      (v.responses = u.responses ∨
        (u.responses = s.responses ++ [⟨commitFailure s.errmode, .none, false, [], []⟩] ∧
         v.responses = s.responses ++ [⟨commitFailure mode, .none, false, [], []⟩]))

/-! ### The whole machine -/

/-- 10_state.md R40: what the spec states for block reset, with the default parameters. OP, TO, MIN, ERRMODE and WAIT_N, for
which it states nothing, are not spoken of. -/
def Obligations.ResetLeavesTheStatedValues : Prop :=
  State.reset.state = .idle ∧ State.reset.leftover = [] ∧ State.reset.acc = [] ∧ State.reset.framingEn = true ∧
  State.reset.pendDtr = false ∧ State.reset.pendRts = false ∧ State.reset.tmrRd = 0 ∧ State.reset.tmrW = 0 ∧
  State.reset.seq = [] ∧ State.reset.n = 0 ∧ State.reset.idx = 0

/-- 70_reset_and_hazards.md R185: block reset, from any STATE. -/
def Obligations.BlockResetFromAnyState : Prop :=
  ∀ (s : State) (ms : List Move), s.moves = .blockReset :: ms →
    ∃ t, step s = .next t ∧ t.settled = { s.settled with
      moves := ms, state := .idle, leftover := [], acc := []
      framingEn := s.params.framingReset, pendDtr := s.params.lineResetDtr, pendRts := s.params.lineResetRts
      tmrRd := 0, tmrW := 0, seq := [], n := 0, idx := 0 }

/-- 30_encoding.md R76: a request with a reserved opcode is refused: the mark, and nothing else. -/
def Obligations.ReservedOpcodeOnlySetsTheMark : Prop :=
  (∀ (opcode : Byte) (s : State), exec (.reserved opcode) s = .next { s with refusalMark := true }) ∧
  ∀ (opcode : Byte) (operands : List Operand) (s : State) (ms : List Move),
    opcode = 0x00 ∨ 0x0D ≤ opcode.toNat → s.state = .idle → s.moves = .request ⟨opcode, operands⟩ :: ms →
    step s = .next { s with moves := ms, refusalMark := true }

/-- A step runs the instruction its move leads to: a request that CORE accepts in IDLE, the sequencer's command at IDX, the
next SLIP token of the stand-alone codec. Beside exec it only takes the move, and the token's bytes. At a request made outside
IDLE the machine is stuck: HOST has no such move (30_encoding.md R63, 93_implementation_defined.md U14). -/
def Obligations.StepRunsTheDecodedInstruction : Prop :=
  ∀ (s : State) (ms : List Move) (i : Instr),
    (∀ r, s.state = .idle → s.moves = .request r :: ms →
      decode s.params.sArgStrict (.request r) = .ok i → step s = exec i { s with moves := ms }) ∧
    (∀ r, s.state ≠ .idle → s.moves = .request r :: ms → step s = .refused (.requestOutsideIdle r.opcode)) ∧
    (∀ t c, s.state = .seqRun → s.moves = .core :: ms → s.idx ≠ s.n → s.seq[s.idx]? = some c →
      decodeToken s.params.sArgStrict t = .ok c → decode s.params.sArgStrict (.token t) = .ok i →
      step s = exec i { s with moves := ms }) ∧
    (∀ rest, s.moves = .codec :: ms → slipToken s.codec.input = some (i, rest) →
      step s = exec i { s with moves := ms, codec := { s.codec with input := rest } })

/-- 10_state.md R32: a tick increments the running timer, saturating, and changes nothing else. -/
def Obligations.TickIncrementsTheRunningTimer : Prop :=
  ∀ (s : State) (ms : List Move), s.moves = .tick :: ms →
    (s.state = .readPoll ∨ s.state = .rawPoll → step s = .next { s with
      moves := ms, tmrRd := BitVec.ofNat 32 (min (s.tmrRd.toNat + 1) (2 ^ 32 - 1)) }) ∧
    (s.state = .seqWait → step s = .next { s with
      moves := ms, tmrW := BitVec.ofNat 32 (min (s.tmrW.toNat + 1) (2 ^ 32 - 1)) }) ∧
    (s.state ≠ .readPoll → s.state ≠ .rawPoll → s.state ≠ .seqWait → step s = .next { s with moves := ms })

/-- 10_state.md R22, 60_exceptions.md R172, 70_reset_and_hazards.md R186: in an await state only the acknowledgement of the
awaited action, or block reset, moves CORE on; an acknowledgement that CORE does not await, as one of an action issued before
a block reset, is discarded. HOST has no request to issue in an await state (30_encoding.md R63): the machine is stuck at one. That an acknowledgement names its action by a number is the model's choice (log 8). -/
def Obligations.OnlyTheAwaitedAckMovesCore : Prop :=
  ∀ (s : State) (m : Move) (ms : List Move), s.moves = m :: ms →
    (s.state.awaits → m ≠ .blockReset → (∀ r, m ≠ .ack s.issued r) → (∀ r, m ≠ .request r) →
      ∃ t, step s = .next t ∧ SameCore s t) ∧
    (s.state.awaits → ∀ r, m = .request r → step s = .refused (.requestOutsideIdle r.opcode)) ∧
    (∀ k r, m = .ack k r → ¬ s.state.awaits ∨ k ≠ s.issued → ∃ t, step s = .next t ∧ SameCore s t)

/-- 00_scope.md R11, 60_exceptions.md R172: a step delivers at most one response, and then CORE is in IDLE; and an active
operation leaves for IDLE only with a response or by block reset. -/
def Obligations.OneResponseEndsAnOperation : Prop :=
  ∀ s t : State, step s = .next t →
    (t.responses = s.responses ∨ ∃ r, t.responses = s.responses ++ [r] ∧ t.state = .idle) ∧
    (s.state ≠ .idle → t.state = .idle → t.responses = s.responses → (takeMove s).1 = .blockReset)

/-- No step takes back an event, a response or the refusal mark, lowers the count of issued actions, or changes a parameter.
The spec states it of the refusal mark (60_exceptions.md R170: sticky). That the history (00_scope.md R12) and the responses are
lists that only grow and that block reset keeps is the model's choice (log 19), as is the counter of issued actions (log 8);
that no step changes a parameter is the model's reading of 00_scope.md R6 (log 11). -/
def Obligations.RecordsOnlyGrow : Prop :=
  ∀ s t : State, step s = .next t →
    s.history <+: t.history ∧ s.responses <+: t.responses ∧ t.params = s.params ∧
    (s.refusalMark = true → t.refusalMark = true) ∧ s.issued ≤ t.issued

/-- 10_state.md R21, R25-R28, R30: which steps may write the persistent registers, SEQ and IDX. -/
def Obligations.RegistersHaveOnlyTheirWriters : Prop :=
  ∀ s t : State, step s = .next t → (takeMove s).1 ≠ .blockReset →
    (t.framingEn ≠ s.framingEn →
      s.state = .idle ∧ ∃ r e, (takeMove s).1 = .request r ∧ decodeRequest r = .ok (.setFraming e)) ∧
    (t.pendDtr ≠ s.pendDtr →
      s.state = .seqRun ∧ (takeMove s).1 = .core ∧ ∃ v, s.seq[s.idx]? = some (.setDTR v)) ∧
    (t.pendRts ≠ s.pendRts →
      s.state = .seqRun ∧ (takeMove s).1 = .core ∧ ∃ v, s.seq[s.idx]? = some (.setRTS v)) ∧
    (t.leftover ≠ s.leftover →
      (s.state = .readPoll ∧ (takeMove s).1 = .core) ∨
      (s.state = .idle ∧ ∃ r i, (takeMove s).1 = .request r ∧ decodeRequest r = .ok i ∧
        ((∃ a b, i = .read a b) ∨ (∃ a, i = .readRaw a) ∨ i = .notifyConnect))) ∧
    (s.state ≠ .idle → t.seq = s.seq ∧ t.n = s.n ∧ (t.idx = s.idx ∨ t.idx = s.idx + 1)) ∧
    (s.state ≠ .seqRun → s.state ≠ .seqWait → s.state ≠ .seqCommitAwait → s.state ≠ .idle → t.idx = s.idx)

/-- The invariant holds at reset. -/
def Obligations.ResetMeetsTheInvariant : Prop := Inv State.reset

/-- Every step keeps the invariant, and in a state that meets it no step runs off the sequence (10_state.md R30). -/
def Obligations.EveryStepKeepsTheInvariant : Prop :=
  ∀ s : State, Inv s → step s ≠ .fault .noCommand ∧ ∀ t, step s = .next t → Inv t
end

