-- ==== Sys2Proof/Laws/Encoding.lean ====
section
/-! SUPPORT. The custom-reset language: cutting at bars, decimal digits, and the token a printed command is. -/

namespace Sys2Proof

/-! ### splitBars -/

theorem splitBars_ne_nil (s : Bytes) : splitBars s ≠ [] := by
  induction s with
  | nil => simp [splitBars]
  | cons b bs ih =>
    simp only [splitBars]
    split
    · simp
    · split <;> simp

theorem splitBars_cons_bar (bs : Bytes) : splitBars (0x7C#8 :: bs) = [] :: splitBars bs := by
  simp [splitBars]

/-- A byte that is no bar joins the first token. -/
theorem splitBars_cons (b : Byte) (bs : Bytes) (h : b ≠ 0x7C#8) :
    ∃ t ts, splitBars bs = t :: ts ∧ splitBars (b :: bs) = (b :: t) :: ts := by
  cases hs : splitBars bs with
  | nil => exact absurd hs (splitBars_ne_nil bs)
  | cons t ts => exact ⟨t, ts, rfl, by simp [splitBars, h, hs]⟩

theorem splitBars_of_no_bar (t : Bytes) (h : 0x7C#8 ∉ t) : splitBars t = [t] := by
  induction t with
  | nil => rfl
  | cons b bs ih =>
    simp only [List.mem_cons, not_or] at h
    obtain ⟨t, ts, h1, h2⟩ := splitBars_cons b bs (Ne.symm h.1)
    rw [ih h.2] at h1
    simp only [List.cons.injEq] at h1
    rw [h2, ← h1.1, ← h1.2]

theorem splitBars_append (t rest : Bytes) (h : 0x7C#8 ∉ t) :
    splitBars (t ++ 0x7C#8 :: rest) = t :: splitBars rest := by
  induction t with
  | nil => exact splitBars_cons_bar rest
  | cons b bs ih =>
    simp only [List.mem_cons, not_or] at h
    obtain ⟨t, ts, h1, h2⟩ := splitBars_cons b (bs ++ 0x7C#8 :: rest) (Ne.symm h.1)
    rw [ih h.2] at h1
    simp only [List.cons.injEq] at h1
    rw [List.cons_append, h2, ← h1.1, ← h1.2]

/-! ### Decimal digits -/

theorem digitByte_toNat (d : Nat) (h : d < 10) : (digitByte d).toNat = 0x30 + d := by
  simp [digitByte]; omega

theorem digitByte_isDigit (d : Nat) (h : d < 10) : isDigit (digitByte d) = true := by
  simp only [isDigit, Bool.and_eq_true, decide_eq_true_eq, BitVec.le_def, digitByte_toNat d h]
  simp; omega

theorem decimalDigits_digits (fuel n : Nat) (tail : Bytes) (ht : ∀ d ∈ tail, isDigit d = true) :
    ∀ d ∈ decimalDigits fuel n tail, isDigit d = true := by
  induction fuel generalizing n tail with
  | zero => exact ht
  | succ fuel ih =>
    simp only [decimalDigits]
    split
    · rename_i h
      simpa [digitByte_isDigit n h] using ht
    · exact ih _ _ (by simpa [digitByte_isDigit (n % 10) (by omega)] using ht)

theorem decimalDigits_ne_nil (fuel n : Nat) (tail : Bytes) : decimalDigits (fuel + 1) n tail ≠ [] := by
  induction fuel generalizing n tail with
  | zero => simp only [decimalDigits]; split <;> simp
  | succ fuel ih =>
    rw [decimalDigits]
    split
    · simp
    · exact ih _ _

theorem decimalValue_digits (fuel n : Nat) (tail : Bytes) (h : n < 10 ^ (fuel + 1)) :
    decimalValue (decimalDigits (fuel + 1) n tail) = n * 10 ^ tail.length + decimalValue tail := by
  induction fuel generalizing n tail with
  | zero =>
    have hn : n < 10 := by simpa using h
    simp only [decimalDigits, if_pos hn, decimalValue, digitByte_toNat n hn]
    simp
  | succ fuel ih =>
    rw [decimalDigits]
    split
    · rename_i hn
      simp only [decimalValue, digitByte_toNat n hn]
      simp
    · rw [ih _ _ (by rw [pow_succ] at h; omega)]
      simp only [List.length_cons, decimalValue, digitByte_toNat (n % 10) (by omega)]
      have hn : n / 10 * 10 + n % 10 = n := by omega
      have hd : 0x30 + n % 10 - char0.toNat = n % 10 := Nat.add_sub_cancel_left 0x30 (n % 10)
      rw [hd, pow_succ]
      calc n / 10 * (10 ^ tail.length * 10) + (n % 10 * 10 ^ tail.length + decimalValue tail)
          = (n / 10 * 10 + n % 10) * 10 ^ tail.length + decimalValue tail := by ring
        _ = n * 10 ^ tail.length + decimalValue tail := by rw [hn]

theorem printU32_digits (n : U32) : ∀ d ∈ printU32 n, isDigit d = true :=
  decimalDigits_digits 10 n.toNat [] (by simp)

theorem printU32_value (n : U32) : decimalValue (printU32 n) = n.toNat := by
  have h := decimalValue_digits 9 n.toNat [] (by have := n.isLt; omega)
  simpa [printU32, decimalValue] using h

theorem printU32_ne_nil (n : U32) : printU32 n ≠ [] := decimalDigits_ne_nil 9 n.toNat []

/-! ### Printed commands -/

theorem bar_not_digit (d : Byte) (h : isDigit d = true) : d ≠ 0x7C#8 := by
  rintro rfl
  simp [isDigit] at h

theorem bar_not_mem_printCommand (c : Command) : 0x7C#8 ∉ printCommand c := by
  cases c with
  | setDTR v => cases v <;> decide
  | setRTS v => cases v <;> decide
  | commit => decide
  | wait n =>
    simp only [printCommand, List.mem_cons, not_or]
    exact ⟨by decide, fun h => bar_not_digit _ (printU32_digits n _ h) rfl⟩

/-- The duration of a printed Wait is read back. -/
theorem decodeDuration_printU32 (n : U32) (h : n ≠ 0) : decodeDuration (printU32 n) = .ok n := by
  have hn : n.toNat ≠ 0 := fun e => h (BitVec.eq_of_toNat_eq (by simpa using e))
  have hlt := n.isLt
  have hall : (printU32 n).all isDigit = true := List.all_eq_true.mpr (printU32_digits n)
  have hne : (printU32 n).isEmpty = false := by
    cases he : printU32 n with
    | nil => exact absurd he (printU32_ne_nil n)
    | cons _ _ => rfl
  simp only [decodeDuration, hall, hne, printU32_value]
  rw [if_neg (by simp), if_pos ⟨by omega, by omega⟩]
  simp

/-- The token of a well-formed command is read back, in both settings of S_ARG_STRICT. -/
theorem decodeToken_printCommand (strict : Bool) (c : Command) (h : c.wf = true) :
    decodeToken strict (printCommand c) = .ok c := by
  cases c with
  | setDTR v => cases v <;> rfl
  | setRTS v => cases v <;> rfl
  | commit => cases strict <;> rfl
  | wait n =>
    have hn : n ≠ 0 := by simpa [Command.wf] using h
    simp [printCommand, decodeToken, decodeDuration_printU32 n hn, Except.map]

end Sys2Proof
end

