-- ==== Sys2Proof/Laws/Slip.lean ====
section
/-! SUPPORT. The codec's functions, each by what it does: the cut at a marker, the cases of a decode, the inverse of escaping. -/

namespace Sys2Proof.Machine

/-! ### cutAtEnd -/

theorem cutAtEnd_of_marker (g r : Bytes) (h : 0xC0#8 ∉ g) : cutAtEnd (g ++ 0xC0#8 :: r) = some (g, r) := by
  induction g with
  | nil => simp [cutAtEnd, byteEnd]
  | cons b bs ih =>
    have hb : b ≠ 0xC0#8 := fun e => h (by simp [e])
    simp [cutAtEnd, byteEnd, hb, ih (fun m => h (by simp [m]))]

theorem cutAtEnd_of_no_marker (b : Bytes) (h : 0xC0#8 ∉ b) : cutAtEnd b = none := by
  induction b with
  | nil => rfl
  | cons x xs ih =>
    have hx : x ≠ 0xC0#8 := fun e => h (by simp [e])
    simp [cutAtEnd, byteEnd, hx, ih (fun m => h (by simp [m]))]

/-- Every byte string has no marker, or is cut at its first one. -/
theorem marker_cases (b : Bytes) :
    0xC0#8 ∉ b ∨ ∃ g r, b = g ++ 0xC0#8 :: r ∧ 0xC0#8 ∉ g := by
  induction b with
  | nil => simp
  | cons x xs ih =>
    by_cases hx : x = 0xC0#8
    · exact .inr ⟨[], xs, by simp [hx], by simp⟩
    · rcases ih with h | ⟨g, r, rfl, hg⟩
      · exact .inl (by simp [h, Ne.symm hx])
      · exact .inr ⟨x :: g, r, by simp, by simp [hg, Ne.symm hx]⟩

/-! ### slipDecode -/

theorem slipDecode_of_no_marker (b : Bytes) (h : 0xC0#8 ∉ b) : slipDecode b = (none, b) := by
  simp [slipDecode, cutAtEnd_of_no_marker b h]

theorem slipDecode_of_open_frame (g r : Bytes) (hg : 0xC0#8 ∉ g) (hr : 0xC0#8 ∉ r) :
    slipDecode (g ++ 0xC0#8 :: r) = (none, g ++ 0xC0#8 :: r) := by
  simp [slipDecode, cutAtEnd_of_marker g r hg, cutAtEnd_of_no_marker r hr]

theorem slipDecode_of_frame (g body r : Bytes) (hg : 0xC0#8 ∉ g) (hb : 0xC0#8 ∉ body) :
    slipDecode (g ++ 0xC0#8 :: (body ++ 0xC0#8 :: r)) = (some (unescape body), r) := by
  simp [slipDecode, cutAtEnd_of_marker g _ hg, cutAtEnd_of_marker body r hb]

/-- What a decode can be: no marker, an open frame, or a complete one. -/
theorem slipDecode_cases (b : Bytes) :
    (slipDecode b = (none, b) ∧ 0xC0#8 ∉ b) ∨
    (slipDecode b = (none, b) ∧ ∃ g r, b = g ++ 0xC0#8 :: r ∧ 0xC0#8 ∉ g ∧ 0xC0#8 ∉ r) ∨
    ∃ g body r, b = g ++ 0xC0#8 :: (body ++ 0xC0#8 :: r) ∧ 0xC0#8 ∉ g ∧ 0xC0#8 ∉ body ∧
      slipDecode b = (some (unescape body), r) := by
  rcases marker_cases b with h | ⟨g, r, rfl, hg⟩
  · exact .inl ⟨slipDecode_of_no_marker b h, h⟩
  · rcases marker_cases r with h | ⟨body, r', rfl, hb⟩
    · exact .inr (.inl ⟨slipDecode_of_open_frame g r hg h, g, r, rfl, hg, h⟩)
    · exact .inr (.inr ⟨g, body, r', rfl, hg, hb, slipDecode_of_frame g body r' hg hb⟩)

/-- The remainder of a decode is no longer than the buffer. -/
theorem slipDecode_rest_length (b : Bytes) : (slipDecode b).2.length ≤ b.length := by
  rcases slipDecode_cases b with ⟨h, _⟩ | ⟨h, _⟩ | ⟨g, body, r, rfl, _, _, h⟩
  · rw [h]
  · rw [h]
  · rw [h]; simp only [List.length_append, List.length_cons]; omega

/-! ### escaping -/

theorem end_not_mem_esc (x : Byte) : 0xC0#8 ∉ esc x := by
  unfold esc byteEnd byteEsc byteEscEnd byteEscEsc
  split
  · simp
  · split
    · simp
    · rename_i h _; simpa using Ne.symm h

theorem end_not_mem_escapeAll (p : Bytes) : 0xC0#8 ∉ escapeAll p := by
  induction p with
  | nil => simp [escapeAll]
  | cons x xs ih => simp [escapeAll, ih, end_not_mem_esc x]

theorem unescape_lone (b : Byte) (rest : Bytes)
    (h : ¬ (b = 0xDB#8 ∧ (rest.head? = some 0xDC#8 ∨ rest.head? = some 0xDD#8))) :
    unescape (b :: rest) = b :: unescape rest := by
  cases rest with
  | nil => simp [unescape]
  | cons c cs =>
    simp only [List.head?_cons, Option.some.injEq] at h
    simp only [unescape, byteEsc, byteEscEnd, byteEscEsc]
    rw [if_neg (fun e => h ⟨e.1, .inl e.2⟩), if_neg (fun e => h ⟨e.1, .inr e.2⟩)]

/-- Unescaping inverts escaping, byte by byte. -/
theorem unescape_esc_append (x : Byte) (rest : Bytes) : unescape (esc x ++ rest) = x :: unescape rest := by
  by_cases h1 : x = 0xC0#8
  · subst h1; rfl
  · by_cases h2 : x = 0xDB#8
    · subst h2; rfl
    · have : esc x = [x] := by simp [esc, byteEnd, byteEsc, h1, h2]
      rw [this]
      exact unescape_lone x rest (fun e => h2 e.1)

theorem unescape_escapeAll (p : Bytes) : unescape (escapeAll p) = p := by
  induction p with
  | nil => rfl
  | cons x xs ih => rw [escapeAll, unescape_esc_append, ih]

theorem slipEncode_eq (p : Bytes) : slipEncode p = 0xC0#8 :: (escapeAll p ++ [0xC0#8]) := rfl

/-- The first frame of a stream that begins with an encoded frame (40_slip_codec.md R95) decodes to its payload. -/
theorem slipDecode_slipEncode_append (p r : Bytes) : slipDecode (slipEncode p ++ r) = (some p, r) := by
  have h := slipDecode_of_frame [] (escapeAll p) r (by simp) (end_not_mem_escapeAll p)
  rw [unescape_escapeAll] at h
  simpa [slipEncode_eq] using h

end Sys2Proof.Machine
end

