-- ==== Sys2Proof/Laws/State.lean ====
section
/-! SUPPORT. One lemma per field of State per named update, true by rfl, so that no proof unfolds a record update. -/

namespace Sys2Proof.Machine

/-! ### record -/

@[simp] theorem record_leftover (s : State) (e : Event) : (s.record e).leftover = s.leftover := rfl
@[simp] theorem record_framingEn (s : State) (e : Event) : (s.record e).framingEn = s.framingEn := rfl
@[simp] theorem record_pendDtr (s : State) (e : Event) : (s.record e).pendDtr = s.pendDtr := rfl
@[simp] theorem record_pendRts (s : State) (e : Event) : (s.record e).pendRts = s.pendRts := rfl
@[simp] theorem record_state (s : State) (e : Event) : (s.record e).state = s.state := rfl
@[simp] theorem record_op (s : State) (e : Event) : (s.record e).op = s.op := rfl
@[simp] theorem record_toMs (s : State) (e : Event) : (s.record e).toMs = s.toMs := rfl
@[simp] theorem record_minBytes (s : State) (e : Event) : (s.record e).minBytes = s.minBytes := rfl
@[simp] theorem record_acc (s : State) (e : Event) : (s.record e).acc = s.acc := rfl
@[simp] theorem record_tmrRd (s : State) (e : Event) : (s.record e).tmrRd = s.tmrRd := rfl
@[simp] theorem record_seq (s : State) (e : Event) : (s.record e).seq = s.seq := rfl
@[simp] theorem record_n (s : State) (e : Event) : (s.record e).n = s.n := rfl
@[simp] theorem record_idx (s : State) (e : Event) : (s.record e).idx = s.idx := rfl
@[simp] theorem record_errmode (s : State) (e : Event) : (s.record e).errmode = s.errmode := rfl
@[simp] theorem record_tmrW (s : State) (e : Event) : (s.record e).tmrW = s.tmrW := rfl
@[simp] theorem record_waitN (s : State) (e : Event) : (s.record e).waitN = s.waitN := rfl
@[simp] theorem record_responses (s : State) (e : Event) : (s.record e).responses = s.responses := rfl
@[simp] theorem record_history (s : State) (e : Event) : (s.record e).history = s.history ++ [e] := rfl
@[simp] theorem record_refusalMark (s : State) (e : Event) : (s.record e).refusalMark = s.refusalMark := rfl
@[simp] theorem record_params (s : State) (e : Event) : (s.record e).params = s.params := rfl
@[simp] theorem record_answers (s : State) (e : Event) : (s.record e).answers = s.answers := rfl
@[simp] theorem record_issued (s : State) (e : Event) : (s.record e).issued = s.issued := rfl
@[simp] theorem record_moves (s : State) (e : Event) : (s.record e).moves = s.moves := rfl
@[simp] theorem record_draws (s : State) (e : Event) : (s.record e).draws = s.draws := rfl
@[simp] theorem record_codec (s : State) (e : Event) : (s.record e).codec = s.codec := rfl

/-! ### issue -/

@[simp] theorem issue_leftover (s : State) (e : Event) : (s.issue e).leftover = s.leftover := rfl
@[simp] theorem issue_framingEn (s : State) (e : Event) : (s.issue e).framingEn = s.framingEn := rfl
@[simp] theorem issue_pendDtr (s : State) (e : Event) : (s.issue e).pendDtr = s.pendDtr := rfl
@[simp] theorem issue_pendRts (s : State) (e : Event) : (s.issue e).pendRts = s.pendRts := rfl
@[simp] theorem issue_state (s : State) (e : Event) : (s.issue e).state = s.state := rfl
@[simp] theorem issue_op (s : State) (e : Event) : (s.issue e).op = s.op := rfl
@[simp] theorem issue_toMs (s : State) (e : Event) : (s.issue e).toMs = s.toMs := rfl
@[simp] theorem issue_minBytes (s : State) (e : Event) : (s.issue e).minBytes = s.minBytes := rfl
@[simp] theorem issue_acc (s : State) (e : Event) : (s.issue e).acc = s.acc := rfl
@[simp] theorem issue_tmrRd (s : State) (e : Event) : (s.issue e).tmrRd = s.tmrRd := rfl
@[simp] theorem issue_seq (s : State) (e : Event) : (s.issue e).seq = s.seq := rfl
@[simp] theorem issue_n (s : State) (e : Event) : (s.issue e).n = s.n := rfl
@[simp] theorem issue_idx (s : State) (e : Event) : (s.issue e).idx = s.idx := rfl
@[simp] theorem issue_errmode (s : State) (e : Event) : (s.issue e).errmode = s.errmode := rfl
@[simp] theorem issue_tmrW (s : State) (e : Event) : (s.issue e).tmrW = s.tmrW := rfl
@[simp] theorem issue_waitN (s : State) (e : Event) : (s.issue e).waitN = s.waitN := rfl
@[simp] theorem issue_responses (s : State) (e : Event) : (s.issue e).responses = s.responses := rfl
@[simp] theorem issue_history (s : State) (e : Event) : (s.issue e).history = s.history ++ [e] := rfl
@[simp] theorem issue_refusalMark (s : State) (e : Event) : (s.issue e).refusalMark = s.refusalMark := rfl
@[simp] theorem issue_params (s : State) (e : Event) : (s.issue e).params = s.params := rfl
@[simp] theorem issue_answers (s : State) (e : Event) : (s.issue e).answers = s.answers := rfl
@[simp] theorem issue_issued (s : State) (e : Event) : (s.issue e).issued = s.issued + 1 := rfl
@[simp] theorem issue_moves (s : State) (e : Event) : (s.issue e).moves = s.moves := rfl
@[simp] theorem issue_draws (s : State) (e : Event) : (s.issue e).draws = s.draws := rfl
@[simp] theorem issue_codec (s : State) (e : Event) : (s.issue e).codec = s.codec := rfl

/-! ### pollChunk -/

@[simp] theorem pollChunk_leftover (s : State) : (s.pollChunk).leftover = s.leftover := rfl
@[simp] theorem pollChunk_framingEn (s : State) : (s.pollChunk).framingEn = s.framingEn := rfl
@[simp] theorem pollChunk_pendDtr (s : State) : (s.pollChunk).pendDtr = s.pendDtr := rfl
@[simp] theorem pollChunk_pendRts (s : State) : (s.pollChunk).pendRts = s.pendRts := rfl
@[simp] theorem pollChunk_state (s : State) : (s.pollChunk).state = s.state := rfl
@[simp] theorem pollChunk_op (s : State) : (s.pollChunk).op = s.op := rfl
@[simp] theorem pollChunk_toMs (s : State) : (s.pollChunk).toMs = s.toMs := rfl
@[simp] theorem pollChunk_minBytes (s : State) : (s.pollChunk).minBytes = s.minBytes := rfl
@[simp] theorem pollChunk_acc (s : State) : (s.pollChunk).acc = s.acc := rfl
@[simp] theorem pollChunk_tmrRd (s : State) : (s.pollChunk).tmrRd = s.tmrRd := rfl
@[simp] theorem pollChunk_seq (s : State) : (s.pollChunk).seq = s.seq := rfl
@[simp] theorem pollChunk_n (s : State) : (s.pollChunk).n = s.n := rfl
@[simp] theorem pollChunk_idx (s : State) : (s.pollChunk).idx = s.idx := rfl
@[simp] theorem pollChunk_errmode (s : State) : (s.pollChunk).errmode = s.errmode := rfl
@[simp] theorem pollChunk_tmrW (s : State) : (s.pollChunk).tmrW = s.tmrW := rfl
@[simp] theorem pollChunk_waitN (s : State) : (s.pollChunk).waitN = s.waitN := rfl
@[simp] theorem pollChunk_responses (s : State) : (s.pollChunk).responses = s.responses := rfl
@[simp] theorem pollChunk_history (s : State) : (s.pollChunk).history = s.history ++ [.readChunk s.answers.chunk] := rfl
@[simp] theorem pollChunk_refusalMark (s : State) : (s.pollChunk).refusalMark = s.refusalMark := rfl
@[simp] theorem pollChunk_params (s : State) : (s.pollChunk).params = s.params := rfl
@[simp] theorem pollChunk_answers (s : State) : (s.pollChunk).answers = { s.answers with chunk := none } := rfl
@[simp] theorem pollChunk_issued (s : State) : (s.pollChunk).issued = s.issued := rfl
@[simp] theorem pollChunk_moves (s : State) : (s.pollChunk).moves = s.moves := rfl
@[simp] theorem pollChunk_draws (s : State) : (s.pollChunk).draws = s.draws := rfl
@[simp] theorem pollChunk_codec (s : State) : (s.pollChunk).codec = s.codec := rfl

/-! ### unspecify -/

@[simp] theorem unspecify_leftover (s : State) : (s.unspecify).leftover = s.leftover := rfl
@[simp] theorem unspecify_framingEn (s : State) : (s.unspecify).framingEn = s.framingEn := rfl
@[simp] theorem unspecify_pendDtr (s : State) : (s.unspecify).pendDtr = s.pendDtr := rfl
@[simp] theorem unspecify_pendRts (s : State) : (s.unspecify).pendRts = s.pendRts := rfl
@[simp] theorem unspecify_state (s : State) : (s.unspecify).state = s.state := rfl
@[simp] theorem unspecify_op (s : State) : (s.unspecify).op = Config.freeOp s.draws := rfl
@[simp] theorem unspecify_toMs (s : State) : (s.unspecify).toMs = Config.freeTo s.draws := rfl
@[simp] theorem unspecify_minBytes (s : State) : (s.unspecify).minBytes = Config.freeMin s.draws := rfl
@[simp] theorem unspecify_acc (s : State) : (s.unspecify).acc = s.acc := rfl
@[simp] theorem unspecify_tmrRd (s : State) : (s.unspecify).tmrRd = s.tmrRd := rfl
@[simp] theorem unspecify_seq (s : State) : (s.unspecify).seq = s.seq := rfl
@[simp] theorem unspecify_n (s : State) : (s.unspecify).n = s.n := rfl
@[simp] theorem unspecify_idx (s : State) : (s.unspecify).idx = s.idx := rfl
@[simp] theorem unspecify_errmode (s : State) : (s.unspecify).errmode = Config.freeErrmode s.draws := rfl
@[simp] theorem unspecify_tmrW (s : State) : (s.unspecify).tmrW = s.tmrW := rfl
@[simp] theorem unspecify_waitN (s : State) : (s.unspecify).waitN = Config.freeWaitN s.draws := rfl
@[simp] theorem unspecify_responses (s : State) : (s.unspecify).responses = s.responses := rfl
@[simp] theorem unspecify_history (s : State) : (s.unspecify).history = s.history := rfl
@[simp] theorem unspecify_refusalMark (s : State) : (s.unspecify).refusalMark = s.refusalMark := rfl
@[simp] theorem unspecify_params (s : State) : (s.unspecify).params = s.params := rfl
@[simp] theorem unspecify_answers (s : State) : (s.unspecify).answers = s.answers := rfl
@[simp] theorem unspecify_issued (s : State) : (s.unspecify).issued = s.issued := rfl
@[simp] theorem unspecify_moves (s : State) : (s.unspecify).moves = s.moves := rfl
@[simp] theorem unspecify_draws (s : State) : (s.unspecify).draws = s.draws + 1 := rfl
@[simp] theorem unspecify_codec (s : State) : (s.unspecify).codec = s.codec := rfl

/-! ### respond -/

@[simp] theorem respond_leftover (s : State) (r : Response) : (s.respond r).leftover = s.leftover := rfl
@[simp] theorem respond_framingEn (s : State) (r : Response) : (s.respond r).framingEn = s.framingEn := rfl
@[simp] theorem respond_pendDtr (s : State) (r : Response) : (s.respond r).pendDtr = s.pendDtr := rfl
@[simp] theorem respond_pendRts (s : State) (r : Response) : (s.respond r).pendRts = s.pendRts := rfl
@[simp] theorem respond_state (s : State) (r : Response) : (s.respond r).state = .idle := rfl
@[simp] theorem respond_op (s : State) (r : Response) : (s.respond r).op = Config.freeOp s.draws := rfl
@[simp] theorem respond_toMs (s : State) (r : Response) : (s.respond r).toMs = Config.freeTo s.draws := rfl
@[simp] theorem respond_minBytes (s : State) (r : Response) : (s.respond r).minBytes = Config.freeMin s.draws := rfl
@[simp] theorem respond_acc (s : State) (r : Response) : (s.respond r).acc = s.acc := rfl
@[simp] theorem respond_tmrRd (s : State) (r : Response) : (s.respond r).tmrRd = s.tmrRd := rfl
@[simp] theorem respond_seq (s : State) (r : Response) : (s.respond r).seq = s.seq := rfl
@[simp] theorem respond_n (s : State) (r : Response) : (s.respond r).n = s.n := rfl
@[simp] theorem respond_idx (s : State) (r : Response) : (s.respond r).idx = s.idx := rfl
@[simp] theorem respond_errmode (s : State) (r : Response) : (s.respond r).errmode = Config.freeErrmode s.draws := rfl
@[simp] theorem respond_tmrW (s : State) (r : Response) : (s.respond r).tmrW = s.tmrW := rfl
@[simp] theorem respond_waitN (s : State) (r : Response) : (s.respond r).waitN = Config.freeWaitN s.draws := rfl
@[simp] theorem respond_responses (s : State) (r : Response) : (s.respond r).responses = s.responses ++ [r] := rfl
@[simp] theorem respond_history (s : State) (r : Response) : (s.respond r).history = s.history := rfl
@[simp] theorem respond_refusalMark (s : State) (r : Response) : (s.respond r).refusalMark = s.refusalMark := rfl
@[simp] theorem respond_params (s : State) (r : Response) : (s.respond r).params = s.params := rfl
@[simp] theorem respond_answers (s : State) (r : Response) : (s.respond r).answers = s.answers := rfl
@[simp] theorem respond_issued (s : State) (r : Response) : (s.respond r).issued = s.issued := rfl
@[simp] theorem respond_moves (s : State) (r : Response) : (s.respond r).moves = s.moves := rfl
@[simp] theorem respond_draws (s : State) (r : Response) : (s.respond r).draws = s.draws + 1 := rfl
@[simp] theorem respond_codec (s : State) (r : Response) : (s.respond r).codec = s.codec := rfl

/-! ### accept -/

@[simp] theorem accept_leftover (s : State) (o : Byte) : (s.accept o).leftover = s.leftover := rfl
@[simp] theorem accept_framingEn (s : State) (o : Byte) : (s.accept o).framingEn = s.framingEn := rfl
@[simp] theorem accept_pendDtr (s : State) (o : Byte) : (s.accept o).pendDtr = s.pendDtr := rfl
@[simp] theorem accept_pendRts (s : State) (o : Byte) : (s.accept o).pendRts = s.pendRts := rfl
@[simp] theorem accept_state (s : State) (o : Byte) : (s.accept o).state = s.state := rfl
@[simp] theorem accept_op (s : State) (o : Byte) : (s.accept o).op = o := rfl
@[simp] theorem accept_toMs (s : State) (o : Byte) : (s.accept o).toMs = s.toMs := rfl
@[simp] theorem accept_minBytes (s : State) (o : Byte) : (s.accept o).minBytes = s.minBytes := rfl
@[simp] theorem accept_acc (s : State) (o : Byte) : (s.accept o).acc = s.acc := rfl
@[simp] theorem accept_tmrRd (s : State) (o : Byte) : (s.accept o).tmrRd = s.tmrRd := rfl
@[simp] theorem accept_seq (s : State) (o : Byte) : (s.accept o).seq = s.seq := rfl
@[simp] theorem accept_n (s : State) (o : Byte) : (s.accept o).n = s.n := rfl
@[simp] theorem accept_idx (s : State) (o : Byte) : (s.accept o).idx = s.idx := rfl
@[simp] theorem accept_errmode (s : State) (o : Byte) : (s.accept o).errmode = s.errmode := rfl
@[simp] theorem accept_tmrW (s : State) (o : Byte) : (s.accept o).tmrW = s.tmrW := rfl
@[simp] theorem accept_waitN (s : State) (o : Byte) : (s.accept o).waitN = s.waitN := rfl
@[simp] theorem accept_responses (s : State) (o : Byte) : (s.accept o).responses = s.responses := rfl
@[simp] theorem accept_history (s : State) (o : Byte) : (s.accept o).history = s.history := rfl
@[simp] theorem accept_refusalMark (s : State) (o : Byte) : (s.accept o).refusalMark = s.refusalMark := rfl
@[simp] theorem accept_params (s : State) (o : Byte) : (s.accept o).params = s.params := rfl
@[simp] theorem accept_answers (s : State) (o : Byte) : (s.accept o).answers = s.answers := rfl
@[simp] theorem accept_issued (s : State) (o : Byte) : (s.accept o).issued = s.issued := rfl
@[simp] theorem accept_moves (s : State) (o : Byte) : (s.accept o).moves = s.moves := rfl
@[simp] theorem accept_draws (s : State) (o : Byte) : (s.accept o).draws = s.draws := rfl
@[simp] theorem accept_codec (s : State) (o : Byte) : (s.accept o).codec = s.codec := rfl

/-! ### advance -/

@[simp] theorem advance_leftover (s : State) : (s.advance).leftover = s.leftover := rfl
@[simp] theorem advance_framingEn (s : State) : (s.advance).framingEn = s.framingEn := rfl
@[simp] theorem advance_pendDtr (s : State) : (s.advance).pendDtr = s.pendDtr := rfl
@[simp] theorem advance_pendRts (s : State) : (s.advance).pendRts = s.pendRts := rfl
@[simp] theorem advance_state (s : State) : (s.advance).state = s.state := rfl
@[simp] theorem advance_op (s : State) : (s.advance).op = s.op := rfl
@[simp] theorem advance_toMs (s : State) : (s.advance).toMs = s.toMs := rfl
@[simp] theorem advance_minBytes (s : State) : (s.advance).minBytes = s.minBytes := rfl
@[simp] theorem advance_acc (s : State) : (s.advance).acc = s.acc := rfl
@[simp] theorem advance_tmrRd (s : State) : (s.advance).tmrRd = s.tmrRd := rfl
@[simp] theorem advance_seq (s : State) : (s.advance).seq = s.seq := rfl
@[simp] theorem advance_n (s : State) : (s.advance).n = s.n := rfl
@[simp] theorem advance_idx (s : State) : (s.advance).idx = s.idx + 1 := rfl
@[simp] theorem advance_errmode (s : State) : (s.advance).errmode = s.errmode := rfl
@[simp] theorem advance_tmrW (s : State) : (s.advance).tmrW = s.tmrW := rfl
@[simp] theorem advance_waitN (s : State) : (s.advance).waitN = s.waitN := rfl
@[simp] theorem advance_responses (s : State) : (s.advance).responses = s.responses := rfl
@[simp] theorem advance_history (s : State) : (s.advance).history = s.history := rfl
@[simp] theorem advance_refusalMark (s : State) : (s.advance).refusalMark = s.refusalMark := rfl
@[simp] theorem advance_params (s : State) : (s.advance).params = s.params := rfl
@[simp] theorem advance_answers (s : State) : (s.advance).answers = s.answers := rfl
@[simp] theorem advance_issued (s : State) : (s.advance).issued = s.issued := rfl
@[simp] theorem advance_moves (s : State) : (s.advance).moves = s.moves := rfl
@[simp] theorem advance_draws (s : State) : (s.advance).draws = s.draws := rfl
@[simp] theorem advance_codec (s : State) : (s.advance).codec = s.codec := rfl

/-! ### start -/

@[simp] theorem start_leftover (s : State) (l : List Command) (m : ErrMode) : (s.start l m).leftover = s.leftover := rfl
@[simp] theorem start_framingEn (s : State) (l : List Command) (m : ErrMode) : (s.start l m).framingEn = s.framingEn := rfl
@[simp] theorem start_pendDtr (s : State) (l : List Command) (m : ErrMode) : (s.start l m).pendDtr = s.pendDtr := rfl
@[simp] theorem start_pendRts (s : State) (l : List Command) (m : ErrMode) : (s.start l m).pendRts = s.pendRts := rfl
@[simp] theorem start_state (s : State) (l : List Command) (m : ErrMode) : (s.start l m).state = .seqRun := rfl
@[simp] theorem start_op (s : State) (l : List Command) (m : ErrMode) : (s.start l m).op = s.op := rfl
@[simp] theorem start_toMs (s : State) (l : List Command) (m : ErrMode) : (s.start l m).toMs = s.toMs := rfl
@[simp] theorem start_minBytes (s : State) (l : List Command) (m : ErrMode) : (s.start l m).minBytes = s.minBytes := rfl
@[simp] theorem start_acc (s : State) (l : List Command) (m : ErrMode) : (s.start l m).acc = s.acc := rfl
@[simp] theorem start_tmrRd (s : State) (l : List Command) (m : ErrMode) : (s.start l m).tmrRd = s.tmrRd := rfl
@[simp] theorem start_seq (s : State) (l : List Command) (m : ErrMode) : (s.start l m).seq = l := rfl
@[simp] theorem start_n (s : State) (l : List Command) (m : ErrMode) : (s.start l m).n = l.length := rfl
@[simp] theorem start_idx (s : State) (l : List Command) (m : ErrMode) : (s.start l m).idx = 0 := rfl
@[simp] theorem start_errmode (s : State) (l : List Command) (m : ErrMode) : (s.start l m).errmode = m := rfl
@[simp] theorem start_tmrW (s : State) (l : List Command) (m : ErrMode) : (s.start l m).tmrW = s.tmrW := rfl
@[simp] theorem start_waitN (s : State) (l : List Command) (m : ErrMode) : (s.start l m).waitN = s.waitN := rfl
@[simp] theorem start_responses (s : State) (l : List Command) (m : ErrMode) : (s.start l m).responses = s.responses := rfl
@[simp] theorem start_history (s : State) (l : List Command) (m : ErrMode) : (s.start l m).history = s.history := rfl
@[simp] theorem start_refusalMark (s : State) (l : List Command) (m : ErrMode) : (s.start l m).refusalMark = s.refusalMark := rfl
@[simp] theorem start_params (s : State) (l : List Command) (m : ErrMode) : (s.start l m).params = s.params := rfl
@[simp] theorem start_answers (s : State) (l : List Command) (m : ErrMode) : (s.start l m).answers = s.answers := rfl
@[simp] theorem start_issued (s : State) (l : List Command) (m : ErrMode) : (s.start l m).issued = s.issued := rfl
@[simp] theorem start_moves (s : State) (l : List Command) (m : ErrMode) : (s.start l m).moves = s.moves := rfl
@[simp] theorem start_draws (s : State) (l : List Command) (m : ErrMode) : (s.start l m).draws = s.draws := rfl
@[simp] theorem start_codec (s : State) (l : List Command) (m : ErrMode) : (s.start l m).codec = s.codec := rfl

/-! ### enterAccumulate -/

@[simp] theorem enterAccumulate_leftover (s : State) : (s.enterAccumulate).leftover = [] := rfl
@[simp] theorem enterAccumulate_framingEn (s : State) : (s.enterAccumulate).framingEn = s.framingEn := rfl
@[simp] theorem enterAccumulate_pendDtr (s : State) : (s.enterAccumulate).pendDtr = s.pendDtr := rfl
@[simp] theorem enterAccumulate_pendRts (s : State) : (s.enterAccumulate).pendRts = s.pendRts := rfl
@[simp] theorem enterAccumulate_state (s : State) : (s.enterAccumulate).state = .readPoll := rfl
@[simp] theorem enterAccumulate_op (s : State) : (s.enterAccumulate).op = s.op := rfl
@[simp] theorem enterAccumulate_toMs (s : State) : (s.enterAccumulate).toMs = s.toMs := rfl
@[simp] theorem enterAccumulate_minBytes (s : State) : (s.enterAccumulate).minBytes = s.minBytes := rfl
@[simp] theorem enterAccumulate_acc (s : State) : (s.enterAccumulate).acc = s.leftover := rfl
@[simp] theorem enterAccumulate_tmrRd (s : State) : (s.enterAccumulate).tmrRd = 0 := rfl
@[simp] theorem enterAccumulate_seq (s : State) : (s.enterAccumulate).seq = s.seq := rfl
@[simp] theorem enterAccumulate_n (s : State) : (s.enterAccumulate).n = s.n := rfl
@[simp] theorem enterAccumulate_idx (s : State) : (s.enterAccumulate).idx = s.idx := rfl
@[simp] theorem enterAccumulate_errmode (s : State) : (s.enterAccumulate).errmode = s.errmode := rfl
@[simp] theorem enterAccumulate_tmrW (s : State) : (s.enterAccumulate).tmrW = s.tmrW := rfl
@[simp] theorem enterAccumulate_waitN (s : State) : (s.enterAccumulate).waitN = s.waitN := rfl
@[simp] theorem enterAccumulate_responses (s : State) : (s.enterAccumulate).responses = s.responses := rfl
@[simp] theorem enterAccumulate_history (s : State) : (s.enterAccumulate).history = s.history := rfl
@[simp] theorem enterAccumulate_refusalMark (s : State) : (s.enterAccumulate).refusalMark = s.refusalMark := rfl
@[simp] theorem enterAccumulate_params (s : State) : (s.enterAccumulate).params = s.params := rfl
@[simp] theorem enterAccumulate_answers (s : State) : (s.enterAccumulate).answers = s.answers := rfl
@[simp] theorem enterAccumulate_issued (s : State) : (s.enterAccumulate).issued = s.issued := rfl
@[simp] theorem enterAccumulate_moves (s : State) : (s.enterAccumulate).moves = s.moves := rfl
@[simp] theorem enterAccumulate_draws (s : State) : (s.enterAccumulate).draws = s.draws := rfl
@[simp] theorem enterAccumulate_codec (s : State) : (s.enterAccumulate).codec = s.codec := rfl

/-! ### blockReset -/

@[simp] theorem blockReset_leftover (s : State) : (s.blockReset).leftover = [] := rfl
@[simp] theorem blockReset_framingEn (s : State) : (s.blockReset).framingEn = s.params.framingReset := rfl
@[simp] theorem blockReset_pendDtr (s : State) : (s.blockReset).pendDtr = s.params.lineResetDtr := rfl
@[simp] theorem blockReset_pendRts (s : State) : (s.blockReset).pendRts = s.params.lineResetRts := rfl
@[simp] theorem blockReset_state (s : State) : (s.blockReset).state = .idle := rfl
@[simp] theorem blockReset_op (s : State) : (s.blockReset).op = Config.freeOp s.draws := rfl
@[simp] theorem blockReset_toMs (s : State) : (s.blockReset).toMs = Config.freeTo s.draws := rfl
@[simp] theorem blockReset_minBytes (s : State) : (s.blockReset).minBytes = Config.freeMin s.draws := rfl
@[simp] theorem blockReset_acc (s : State) : (s.blockReset).acc = [] := rfl
@[simp] theorem blockReset_tmrRd (s : State) : (s.blockReset).tmrRd = 0 := rfl
@[simp] theorem blockReset_seq (s : State) : (s.blockReset).seq = [] := rfl
@[simp] theorem blockReset_n (s : State) : (s.blockReset).n = 0 := rfl
@[simp] theorem blockReset_idx (s : State) : (s.blockReset).idx = 0 := rfl
@[simp] theorem blockReset_errmode (s : State) : (s.blockReset).errmode = Config.freeErrmode s.draws := rfl
@[simp] theorem blockReset_tmrW (s : State) : (s.blockReset).tmrW = 0 := rfl
@[simp] theorem blockReset_waitN (s : State) : (s.blockReset).waitN = Config.freeWaitN s.draws := rfl
@[simp] theorem blockReset_responses (s : State) : (s.blockReset).responses = s.responses := rfl
@[simp] theorem blockReset_history (s : State) : (s.blockReset).history = s.history := rfl
@[simp] theorem blockReset_refusalMark (s : State) : (s.blockReset).refusalMark = s.refusalMark := rfl
@[simp] theorem blockReset_params (s : State) : (s.blockReset).params = s.params := rfl
@[simp] theorem blockReset_answers (s : State) : (s.blockReset).answers = s.answers := rfl
@[simp] theorem blockReset_issued (s : State) : (s.blockReset).issued = s.issued := rfl
@[simp] theorem blockReset_moves (s : State) : (s.blockReset).moves = s.moves := rfl
@[simp] theorem blockReset_draws (s : State) : (s.blockReset).draws = s.draws + 1 := rfl
@[simp] theorem blockReset_codec (s : State) : (s.blockReset).codec = s.codec := rfl

/-! ### Updates made of other updates -/

@[simp] theorem askReadable_eq (s : State) : s.askReadable = s.record (.isReadable s.answers.readable) := rfl
@[simp] theorem askWritable_eq (s : State) : s.askWritable = s.record (.isWritable s.answers.writable) := rfl
@[simp] theorem done_eq (s : State) : s.done = s.respond (.plain .ok) := rfl
@[simp] theorem raise_eq (s : State) (status : Status) : s.raise status = s.respond (.plain status) := rfl
@[simp] theorem deliverFrame_eq (s : State) (frame rest : Bytes) :
    s.deliverFrame frame rest = { s with leftover := rest }.respond (.ofData .frame frame) := rfl
@[simp] theorem readTimedOut_eq (s : State) :
    s.readTimedOut = { s with leftover := s.acc, acc := [], state := .readFlushAwait }.issue .flush := rfl
@[simp] theorem refuse_eq (s : State) : s.refuse = { s with refusalMark := true } := rfl

/-! ### settled -/

@[simp] theorem settled_leftover (s : State) : s.settled.leftover = s.leftover := rfl
@[simp] theorem settled_framingEn (s : State) : s.settled.framingEn = s.framingEn := rfl
@[simp] theorem settled_pendDtr (s : State) : s.settled.pendDtr = s.pendDtr := rfl
@[simp] theorem settled_pendRts (s : State) : s.settled.pendRts = s.pendRts := rfl
@[simp] theorem settled_state (s : State) : s.settled.state = s.state := rfl
@[simp] theorem settled_op (s : State) : s.settled.op = 0 := rfl
@[simp] theorem settled_toMs (s : State) : s.settled.toMs = 0 := rfl
@[simp] theorem settled_minBytes (s : State) : s.settled.minBytes = 0 := rfl
@[simp] theorem settled_acc (s : State) : s.settled.acc = s.acc := rfl
@[simp] theorem settled_tmrRd (s : State) : s.settled.tmrRd = s.tmrRd := rfl
@[simp] theorem settled_seq (s : State) : s.settled.seq = s.seq := rfl
@[simp] theorem settled_n (s : State) : s.settled.n = s.n := rfl
@[simp] theorem settled_idx (s : State) : s.settled.idx = s.idx := rfl
@[simp] theorem settled_errmode (s : State) : s.settled.errmode = .propagate := rfl
@[simp] theorem settled_tmrW (s : State) : s.settled.tmrW = s.tmrW := rfl
@[simp] theorem settled_waitN (s : State) : s.settled.waitN = 0 := rfl
@[simp] theorem settled_responses (s : State) : s.settled.responses = s.responses := rfl
@[simp] theorem settled_history (s : State) : s.settled.history = s.history := rfl
@[simp] theorem settled_refusalMark (s : State) : s.settled.refusalMark = s.refusalMark := rfl
@[simp] theorem settled_params (s : State) : s.settled.params = s.params := rfl
@[simp] theorem settled_answers (s : State) : s.settled.answers = s.answers := rfl
@[simp] theorem settled_issued (s : State) : s.settled.issued = s.issued := rfl
@[simp] theorem settled_moves (s : State) : s.settled.moves = s.moves := rfl
@[simp] theorem settled_draws (s : State) : s.settled.draws = 0 := rfl
@[simp] theorem settled_codec (s : State) : s.settled.codec = s.codec := rfl

/-- What a response leaves of the settled state. -/
@[simp] theorem respond_settled (s : State) (r : Response) :
    (s.respond r).settled = { s.settled with state := .idle, responses := s.responses ++ [r] } := rfl

/-- Latching an opcode is not seen in the settled state. -/
@[simp] theorem accept_settled (s : State) (o : Byte) : (s.accept o).settled = s.settled := rfl

/-! ### Reading a history -/

@[simp] theorem commands_nil : commands [] = [] := rfl
@[simp] theorem commands_append (a b : List Event) : commands (a ++ b) = commands a ++ commands b := by simp [commands]
@[simp] theorem commands_cons (e : Event) (h : List Event) :
    commands (e :: h) = e.command.toList ++ commands h := by
  cases he : e.command <;> simp [commands, he]

@[simp] theorem channelEvents_nil : channelEvents [] = [] := rfl
@[simp] theorem channelEvents_append (a b : List Event) :
    channelEvents (a ++ b) = channelEvents a ++ channelEvents b := by simp [channelEvents]
@[simp] theorem channelEvents_cons (e : Event) (h : List Event) :
    channelEvents (e :: h) = (if e.isChannel then [e] else []) ++ channelEvents h := by
  cases he : e.isChannel <;> simp [channelEvents, he]

@[simp] theorem receivedBytes_nil : receivedBytes [] = [] := rfl
@[simp] theorem receivedBytes_append (a b : List Event) :
    receivedBytes (a ++ b) = receivedBytes a ++ receivedBytes b := by simp [receivedBytes]
@[simp] theorem receivedBytes_cons (e : Event) (h : List Event) :
    receivedBytes (e :: h) = e.received ++ receivedBytes h := rfl

end Sys2Proof.Machine
end

