-- ==== Sys2Proof/Laws/Machine.lean ====
section
/-! SUPPORT. What one step can do, said once: the next states of every move with their guards (`Transition`,
`step_cases`), the equations of a step and of a run, and one lemma per shared operation. -/

namespace Sys2Proof.Machine

/-! ### Shared operations -/

theorem within_iff (cap : Option Nat) (k : Nat) : within cap k = true ↔ ∀ c, cap = some c → k ≤ c := by
  cases cap <;> simp [within]

/-- `orOverflow` answers its result when the capacity is kept. -/
theorem orOverflow_next {fits : Bool} {r : Result} {t : State} :
    orOverflow fits r = .next t ↔ fits = true ∧ r = .next t := by
  cases fits <;> simp [orOverflow]

theorem deadlinePassed_iff (s : State) : deadlinePassed s = true ↔ 0 < s.toMs ∧ s.toMs ≤ s.tmrRd := by
  simp [deadlinePassed]

theorem toNat_saturatingSucc (t : U32) : (saturatingSucc t).toNat = min (t.toNat + 1) (2 ^ 32 - 1) := by
  have ht := t.isLt
  unfold saturatingSucc
  split
  · rename_i h; subst h; decide
  · rename_i h
    have hne : t.toNat ≠ 2 ^ 32 - 1 := fun e => h (BitVec.eq_of_toNat_eq (by simpa using e))
    have h1 : (t + 1).toNat = (t.toNat + 1) % 2 ^ 32 := BitVec.toNat_add t 1
    omega

/-- A decode result without a frame returns the buffer (40_slip_codec.md R98). -/
theorem slipDecode_none {b : Bytes} (h : (slipDecode b).1 = none) : slipDecode b = (none, b) := by
  rcases slipDecode_cases b with ⟨h', _⟩ | ⟨h', _⟩ | ⟨g, body, r, rfl, _, _, h'⟩ <;> rw [h'] at h ⊢
  · simp at h

theorem slipDecode_nil : slipDecode [] = (none, []) := rfl

/-! ### The meanings with branches, each as one equation -/

theorem execRead_eq (a b : U32) (s : State) :
    execRead a b s =
      if s.framingEn && !s.leftover.isEmpty then
        match slipDecode s.leftover with
        | (some x, r) => .next ({ s.accept 0x03 with toMs := a, minBytes := b }.deliverFrame x r)
        | (none, _) => .next { s.accept 0x03 with toMs := a, minBytes := b }.enterAccumulate
      else .next { s.accept 0x03 with toMs := a, minBytes := b }.enterAccumulate := rfl

theorem execReadRaw_eq (a : U32) (s : State) :
    execReadRaw a s =
      if s.leftover.isEmpty then .next { s.accept 0x04 with toMs := a, tmrRd := 0, state := .rawPoll }
      else .next ({ s.accept 0x04 with toMs := a, leftover := [] }.respond (.ofData .raw s.leftover)) := rfl

theorem execWriteFrame_eq (p : Bytes) (s : State) :
    execWriteFrame p s = orOverflow (bufferFits p s)
      (if s.answers.writable then
        .next ({ (s.accept 0x05).askWritable with state := .writeAwait }.issue (.write (slipEncode p)))
      else .next (s.accept 0x05).askWritable.unwritable) := rfl

theorem readAppend_eq (x : Bytes) (s : State) :
    readAppend x s.askReadable.pollChunk =
      orOverflow (within s.params.bufCap (s.acc.length + x.length))
        (if s.minBytes.toNat ≤ s.acc.length + x.length then
          .next { s.askReadable.pollChunk with acc := s.acc ++ x }.readFinish
        else .next { s.askReadable.pollChunk with acc := s.acc ++ x }) := by
  simp only [readAppend, State.askReadable, pollChunk_params, record_params, pollChunk_acc, record_acc,
    pollChunk_minBytes, record_minBytes, List.length_append]

theorem readFinish_eq (x : Bytes) (s : State) :
    { s.askReadable.pollChunk with acc := s.acc ++ x }.readFinish =
      if s.framingEn then
        match slipDecode (s.acc ++ x) with
        | (some f, r) => { s.askReadable.pollChunk with acc := [] }.deliverFrame f r
        | (none, _) => { s.askReadable.pollChunk with acc := [], leftover := [] }.respond (.ofData .raw (s.acc ++ x))
      else { s.askReadable.pollChunk with acc := [] }.respond (.ofData .raw (s.acc ++ x)) := rfl

/-- A discarded acknowledgement is at most recorded. -/
theorem lateAck_eq (k : Nat) (r : Ack) (s : State) : lateAck k r s = s ∨ lateAck k r s = s.record (.ack k r) := by
  unfold lateAck
  split
  · exact .inr rfl
  · exact .inl rfl

/-- The remainder of a decode result is no longer than the buffer. -/
theorem slipDecode_length_le {b f r : Bytes} (h : slipDecode b = (some f, r)) : r.length ≤ b.length := by
  rcases slipDecode_cases b with ⟨h', _⟩ | ⟨h', _⟩ | ⟨g, body, r', rfl, _, _, h'⟩ <;> rw [h'] at h <;> cases h
  simp only [List.length_append, List.length_cons]
  omega

theorem within_mono {cap : Option Nat} {j k : Nat} (h : within cap k = true) (hj : j ≤ k) : within cap j = true := by
  rw [within_iff] at *
  intro c hc
  have := h c hc
  omega

/-! ### Which instructions a host request is -/

/-- Whether an instruction is a host request. -/
def isRequest : Instr → Bool
  | .setDTR _ | .setRTS _ | .commit | .wait _ | .slipEnd | .escEnd | .escEsc | .escLone | .literal _ => false
  | .encodeFrame _ | .decodeFrame _ | .read _ _ | .readRaw _ | .writeFrame _ | .classicReset _
  | .usbJtagSerialReset | .hardReset _ | .customReset _ | .validateCustomResetSequence _
  | .setFraming _ | .notifyConnect | .reserved _ => true

theorem operationOf_isRequest {opcode : Byte} {operands : List Operand} {i : Instr}
    (h : operationOf opcode operands = some i) : isRequest i = true := by
  unfold operationOf at h
  repeat' split at h
  all_goals cases h <;> rfl

theorem decodeRequest_isRequest {r : Request} {i : Instr} (h : decodeRequest r = .ok i) : isRequest i = true := by
  unfold decodeRequest at h
  split at h
  · cases h; rfl
  · split at h
    · cases h; exact operationOf_isRequest ‹_›
    · cases h

theorem decodeRequest_reserved (opcode : Byte) (operands : List Operand) (h : reservedOpcode opcode = true) :
    decodeRequest ⟨opcode, operands⟩ = .ok (.reserved opcode) := by
  unfold decodeRequest
  rw [if_pos h]

/-- A command parsed from a string is well formed (30_encoding.md R66, R73). -/
theorem wf_of_decodeToken {strict : Bool} {t : Bytes} {c : Command} (h : decodeToken strict t = .ok c) : c.wf = true := by
  cases t with
  | nil => simp [decodeToken] at h
  | cons b arg =>
    simp only [decodeToken] at h
    split at h
    · cases hb : decodeBit arg <;> simp [hb, Except.map] at h; subst h; rfl
    split at h
    · cases hb : decodeBit arg <;> simp [hb, Except.map] at h; subst h; rfl
    split at h
    · cases hb : decodeDuration arg with
      | error e => simp [hb, Except.map] at h
      | ok n =>
        simp [hb, Except.map] at h; subst h
        unfold decodeDuration at hb
        split at hb
        · cases hb
        split at hb
        · rename_i hr
          cases hb
          have : (BitVec.ofNat 32 (decimalValue arg)).toNat = decimalValue arg := by
            rw [BitVec.toNat_ofNat]; omega
          simp only [Command.wf, bne_iff_ne, ne_eq]
          intro he
          rw [he] at this
          simp at this
          omega
        · cases hb
    split at h
    · split at h <;> cases h; rfl
    · cases h

theorem wf_of_parse {strict : Bool} {q : Bytes} {cs : List Command} (h : parse strict q = some cs) :
    ∀ c ∈ cs, c.wf = true := by
  have key : ∀ ts cs, parseTokens strict ts = some cs → ∀ c ∈ cs, c.wf = true := by
    intro ts
    induction ts with
    | nil => intro cs h; cases h; simp
    | cons t ts ih =>
      intro cs h
      simp only [parseTokens] at h
      split at h
      · rename_i c cs' hc hcs
        cases h
        intro d hd
        rcases List.mem_cons.mp hd with rfl | hd
        · exact wf_of_decodeToken hc
        · exact ih _ hcs _ hd
      · cases h
  exact key _ _ h

/-! ### SLIP tokens -/

/-- What a SLIP token does to the stand-alone codec. -/
def tokenCodec (i : Instr) (c : Codec) : Codec :=
  match i with
  | .slipEnd => c.mark
  | .escEnd => c.push byteEnd
  | .escEsc | .escLone => c.push byteEsc
  | .literal x => c.push x
  | .encodeFrame _ | .decodeFrame _ | .read _ _ | .readRaw _ | .writeFrame _ | .classicReset _
  | .usbJtagSerialReset | .hardReset _ | .customReset _ | .validateCustomResetSequence _
  | .setFraming _ | .notifyConnect | .reserved _ | .setDTR _ | .setRTS _ | .commit | .wait _ => c

/-- A SLIP token's meaning touches the stand-alone codec only. -/
theorem exec_slipToken {b rest : Bytes} {i : Instr} (h : slipToken b = some (i, rest)) (s : State) :
    exec i s = .next { s with codec := tokenCodec i s.codec } := by
  unfold slipToken at h
  repeat' split at h
  all_goals cases h <;> rfl

theorem slipToken_eq_none {b : Bytes} (h : slipToken b = none) : b = [] := by
  unfold slipToken at h
  repeat' split at h
  all_goals first | rfl | cases h

/-! ### The equations of a step -/

/-- What a move does. -/
def moveResult (m : Move) (s : State) : Result :=
  match fetchMove m s with
  | .run i s' => exec i s'
  | .answer r => r

theorem step_eq (s : State) : step s = moveResult (takeMove s).1 (takeMove s).2 := rfl

/-- A step with a move on the schedule takes that move. -/
theorem step_cons {s : State} {m : Move} {ms : List Move} (h : s.moves = m :: ms) :
    step s = moveResult m { s with moves := ms } := by
  simp only [step_eq, takeMove, h]

theorem takeMove_cons {s : State} {m : Move} {ms : List Move} (h : s.moves = m :: ms) :
    takeMove s = (m, { s with moves := ms }) := by
  simp only [takeMove, h]

/-- Taking a move writes nothing but the schedule and the count of draws. -/
theorem takeMove_frame (s : State) : ∃ ms d, (takeMove s).2 = { s with moves := ms, draws := d } := by
  unfold takeMove
  split
  · exact ⟨_, s.draws, rfl⟩
  · exact ⟨s.moves, _, rfl⟩

theorem run_zero (s : State) : run 0 s = .next s := rfl

theorem run_succ (k : Nat) (s : State) :
    run (k + 1) s = match step s with
      | .next s' => run k s'
      | .fault r => .fault r
      | .refused r => .refused r := by
  cases h : step s <;> simp [run, Host.Core.run, core, h]

/-- A run that answers a next state took a first step that did. -/
theorem run_succ_next {k : Nat} {s t : State} (h : run (k + 1) s = .next t) :
    ∃ s', step s = .next s' ∧ run k s' = .next t := by
  rw [run_succ] at h
  split at h
  · exact ⟨_, ‹_›, h⟩
  · cases h
  · cases h

theorem run_succ_of {k : Nat} {s s' : State} {r : Result} (h : step s = .next s') (h' : run k s' = r) :
    run (k + 1) s = r := by
  rw [run_succ, h]; exact h'

/-- A run in two parts. -/
theorem run_add_of {j k : Nat} {s t : State} {r : Result} (h : run j s = .next t) (h' : run k t = r) :
    run (j + k) s = r := by
  induction j generalizing s with
  | zero => cases h; simpa using h'
  | succ j ih =>
    obtain ⟨s', h1, h2⟩ := run_succ_next h
    rw [Nat.add_right_comm]
    exact run_succ_of h1 (ih h2)

/-! ### Every next state of a move -/

/-- The next states of a move, with the guard of each. -/
inductive Transition : Move → State → State → Prop
  -- HOST
  | encodeFrame {s r p} : s.state = .idle → decodeRequest r = .ok (.encodeFrame p) → bufferFits p s = true →
      Transition (.request r) s ((s.accept 0x01).respond (.ofData .bytes (slipEncode p)))
  | decodeFrame {s r b} : s.state = .idle → decodeRequest r = .ok (.decodeFrame b) → bufferFits b s = true →
      Transition (.request r) s ((s.accept 0x02).respond (decodedResponse (slipDecode b)))
  | readFast {s r a b x rest} : s.state = .idle → decodeRequest r = .ok (.read a b) →
      s.framingEn = true → slipDecode s.leftover = (some x, rest) →
      Transition (.request r) s ({ s.accept 0x03 with toMs := a, minBytes := b }.deliverFrame x rest)
  | readLoop {s r a b} : s.state = .idle → decodeRequest r = .ok (.read a b) →
      s.framingEn = false ∨ (slipDecode s.leftover).1 = none →
      Transition (.request r) s { s.accept 0x03 with toMs := a, minBytes := b }.enterAccumulate
  | rawDrain {s r a} : s.state = .idle → decodeRequest r = .ok (.readRaw a) → s.leftover ≠ [] →
      Transition (.request r) s ({ s.accept 0x04 with toMs := a, leftover := [] }.respond (.ofData .raw s.leftover))
  | rawLoop {s r a} : s.state = .idle → decodeRequest r = .ok (.readRaw a) → s.leftover = [] →
      Transition (.request r) s { s.accept 0x04 with toMs := a, tmrRd := 0, state := .rawPoll }
  | write {s r p} : s.state = .idle → decodeRequest r = .ok (.writeFrame p) → bufferFits p s = true →
      s.answers.writable = true →
      Transition (.request r) s
        ({ (s.accept 0x05).askWritable with state := .writeAwait }.issue (.write (slipEncode p)))
  | unwritable {s r p} : s.state = .idle → decodeRequest r = .ok (.writeFrame p) → bufferFits p s = true →
      s.answers.writable = false → Transition (.request r) s (s.accept 0x05).askWritable.unwritable
  | classicReset {s r d} : s.state = .idle → decodeRequest r = .ok (.classicReset d) →
      Transition (.request r) s ((s.accept 0x06).start (classicList d) .propagate)
  | usbJtagSerialReset {s r} : s.state = .idle → decodeRequest r = .ok .usbJtagSerialReset →
      Transition (.request r) s ((s.accept 0x07).start usbJtagSerialList .propagate)
  | hardReset {s r g} : s.state = .idle → decodeRequest r = .ok (.hardReset g) →
      Transition (.request r) s ((s.accept 0x08).start (hardList g) .propagate)
  | customReset {s r q cs} : s.state = .idle → decodeRequest r = .ok (.customReset q) → sequenceFits q s = true →
      parse s.params.sArgStrict q = some cs → Transition (.request r) s ((s.accept 0x09).start cs .wrap)
  | customInvalid {s r q} : s.state = .idle → decodeRequest r = .ok (.customReset q) → sequenceFits q s = true →
      parse s.params.sArgStrict q = none → Transition (.request r) s (s.accept 0x09).done
  | validate {s r q} : s.state = .idle → decodeRequest r = .ok (.validateCustomResetSequence q) →
      sequenceFits q s = true →
      Transition (.request r) s ((s.accept 0x0A).respond ⟨.ok, .bool, valid s.params.sArgStrict q, [], []⟩)
  | setFraming {s r e} : s.state = .idle → decodeRequest r = .ok (.setFraming e) →
      Transition (.request r) s { s.accept 0x0B with framingEn := e }.done
  | notifyConnect {s r} : s.state = .idle → decodeRequest r = .ok .notifyConnect →
      Transition (.request r) s { s.accept 0x0C with leftover := [] }.done
  | reserved {s r o} : s.state = .idle → decodeRequest r = .ok (.reserved o) → Transition (.request r) s s.refuse
  -- CORE
  | noStep {s} : s.state = .idle ∨ s.state.awaits → Transition .core s s
  | readDeadline {s} : s.state = .readPoll → deadlinePassed s = true → Transition .core s s.readTimedOut
  | readUnreadable {s} : s.state = .readPoll → deadlinePassed s = false → s.answers.readable = false →
      Transition .core s ({ s.askReadable with acc := [] }.respond (.ofData .raw s.acc))
  | readNone {s} : s.state = .readPoll → deadlinePassed s = false → s.answers.readable = true →
      s.answers.chunk = none → Transition .core s s.askReadable.pollChunk
  | readChunk {s x} : s.state = .readPoll → deadlinePassed s = false → s.answers.readable = true →
      s.answers.chunk = some x → within s.params.bufCap (s.acc.length + x.length) = true →
      s.acc.length + x.length < s.minBytes.toNat →
      Transition .core s { s.askReadable.pollChunk with acc := s.acc ++ x }
  | readFrame {s x f rest} : s.state = .readPoll → deadlinePassed s = false → s.answers.readable = true →
      s.answers.chunk = some x → within s.params.bufCap (s.acc.length + x.length) = true →
      s.minBytes.toNat ≤ s.acc.length + x.length →
      s.framingEn = true → slipDecode (s.acc ++ x) = (some f, rest) →
      Transition .core s ({ s.askReadable.pollChunk with acc := [] }.deliverFrame f rest)
  | readNoFrame {s x} : s.state = .readPoll → deadlinePassed s = false → s.answers.readable = true →
      s.answers.chunk = some x → within s.params.bufCap (s.acc.length + x.length) = true →
      s.minBytes.toNat ≤ s.acc.length + x.length →
      s.framingEn = true → (slipDecode (s.acc ++ x)).1 = none →
      Transition .core s
        ({ s.askReadable.pollChunk with acc := [], leftover := [] }.respond (.ofData .raw (s.acc ++ x)))
  | readUnframed {s x} : s.state = .readPoll → deadlinePassed s = false → s.answers.readable = true →
      s.answers.chunk = some x → within s.params.bufCap (s.acc.length + x.length) = true →
      s.minBytes.toNat ≤ s.acc.length + x.length → s.framingEn = false →
      Transition .core s ({ s.askReadable.pollChunk with acc := [] }.respond (.ofData .raw (s.acc ++ x)))
  | rawDeadline {s} : s.state = .rawPoll → deadlinePassed s = true → Transition .core s (s.raise .timeout)
  | rawUnreadable {s} : s.state = .rawPoll → deadlinePassed s = false → s.answers.readable = false →
      Transition .core s (s.askReadable.respond (.ofData .raw []))
  | rawChunk {s x} : s.state = .rawPoll → deadlinePassed s = false → s.answers.readable = true →
      s.answers.chunk = some x → x ≠ [] → Transition .core s (s.askReadable.pollChunk.respond (.ofData .raw x))
  | rawNone {s} : s.state = .rawPoll → deadlinePassed s = false → s.answers.readable = true →
      s.answers.chunk = none ∨ s.answers.chunk = some [] → Transition .core s s.askReadable.pollChunk
  | sequenceEnd {s} : s.state = .seqRun → s.idx = s.n → Transition .core s s.done
  | setDTR {s v} : s.state = .seqRun → s.idx ≠ s.n → s.seq[s.idx]? = some (.setDTR v) →
      Transition .core s { s.record (.seqCmd (.setDTR v)) with pendDtr := v }.advance
  | setRTS {s v} : s.state = .seqRun → s.idx ≠ s.n → s.seq[s.idx]? = some (.setRTS v) →
      Transition .core s { s.record (.seqCmd (.setRTS v)) with pendRts := v }.advance
  | commit {s} : s.state = .seqRun → s.idx ≠ s.n → s.seq[s.idx]? = some .commit →
      Transition .core s
        ({ s.record (.seqCmd .commit) with state := .seqCommitAwait }.issue (.setLines s.pendDtr s.pendRts))
  | waitStart {s n} : s.state = .seqRun → s.idx ≠ s.n → s.seq[s.idx]? = some (.wait n) →
      Transition .core s { s.record (.seqCmd (.wait n)) with waitN := n, tmrW := 0, state := .seqWait }
  | waitEnd {s} : s.state = .seqWait → s.waitN ≤ s.tmrW → Transition .core s { s.advance with state := .seqRun }
  | waitMore {s} : s.state = .seqWait → s.tmrW < s.waitN → Transition .core s s
  -- CLOCK
  | tickRead {s} : s.state = .readPoll ∨ s.state = .rawPoll →
      Transition .tick s { s with tmrRd := saturatingSucc s.tmrRd }
  | tickWait {s} : s.state = .seqWait → Transition .tick s { s with tmrW := saturatingSucc s.tmrW }
  | tickIdle {s} : s.state ≠ .readPoll → s.state ≠ .rawPoll → s.state ≠ .seqWait → Transition .tick s s
  -- CHANNEL
  | answers {s a} : Transition (.channel a) s { s with answers := a }
  | flushed {s r} : s.state = .readFlushAwait →
      Transition (.ack s.issued r) s ((s.record (.ack s.issued r)).raise .timeout)
  | written {s} : s.state = .writeAwait →
      Transition (.ack s.issued .ok) s (s.record (.ack s.issued .ok)).done
  | writeFailed {s} : s.state = .writeAwait →
      Transition (.ack s.issued .err) s ((s.record (.ack s.issued .err)).raise .channelError)
  | committed {s} : s.state = .seqCommitAwait →
      Transition (.ack s.issued .ok) s { (s.record (.ack s.issued .ok)).advance with state := .seqRun }
  | commitFailed {s} : s.state = .seqCommitAwait →
      Transition (.ack s.issued .err) s ((s.record (.ack s.issued .err)).raise (commitFailure s.errmode))
  | late {s k r} : ¬ s.state.awaits ∨ k ≠ s.issued → Transition (.ack k r) s (lateAck k r s)
  -- block reset and the stand-alone codec
  | reset {s} : Transition .blockReset s s.blockReset
  | present {s b} : Transition (.present b) s { s with codec := Codec.start b }
  | codecToken {s i rest} : slipToken s.codec.input = some (i, rest) →
      Transition .codec s { s with codec := tokenCodec i { s.codec with input := rest } }
  | codecEnd {s} : s.codec.input = [] → Transition .codec s s

/-- What an accepted request can do. -/
theorem request_cases {r : Request} {i : Instr} {s t : State} (hs : s.state = .idle) (hd : decodeRequest r = .ok i)
    (h : exec i s = .next t) : Transition (.request r) s t := by
  have hr := decodeRequest_isRequest hd
  cases i <;> simp only [isRequest, Bool.false_eq_true] at hr <;> clear hr
  case encodeFrame p =>
    obtain ⟨hf, ht⟩ := orOverflow_next.mp h
    cases ht; exact .encodeFrame hs hd hf
  case decodeFrame b =>
    obtain ⟨hf, ht⟩ := orOverflow_next.mp h
    cases ht; exact .decodeFrame hs hd hf
  case read a b =>
    rw [exec, execRead_eq] at h
    split at h
    · rename_i hg
      have hf : s.framingEn = true := by simp_all
      split at h <;> cases h
      · exact .readFast hs hd hf ‹_›
      · exact .readLoop hs hd (.inr (by simp [*]))
    · rename_i hg
      cases h
      refine .readLoop hs hd ?_
      cases hl : s.leftover with
      | nil => exact .inr rfl
      | cons => left; simpa [hl] using hg
  case readRaw a =>
    rw [exec, execReadRaw_eq] at h
    split at h
    · rename_i hl; cases h; exact .rawLoop hs hd (by simpa using hl)
    · rename_i hl; cases h; exact .rawDrain hs hd (by simpa using hl)
  case writeFrame p =>
    rw [exec, execWriteFrame_eq] at h
    obtain ⟨hf, ht⟩ := orOverflow_next.mp h
    split at ht
    · cases ht; exact .write hs hd hf ‹_›
    · rename_i hw; cases ht; exact .unwritable hs hd hf (by simpa using hw)
  case classicReset d => cases h; exact .classicReset hs hd
  case usbJtagSerialReset => cases h; exact .usbJtagSerialReset hs hd
  case hardReset g => cases h; exact .hardReset hs hd
  case customReset q =>
    obtain ⟨hf, ht⟩ := orOverflow_next.mp h
    split at ht
    · cases ht; exact .customInvalid hs hd hf ‹_›
    · cases ht; exact .customReset hs hd hf ‹_›
  case validateCustomResetSequence q =>
    obtain ⟨hf, ht⟩ := orOverflow_next.mp h
    cases ht; exact .validate hs hd hf
  case setFraming e => cases h; exact .setFraming hs hd
  case notifyConnect => cases h; exact .notifyConnect hs hd
  case reserved o => cases h; exact .reserved hs hd

/-- What a poll of READ can do. -/
theorem readPollStep_cases {s t : State} (hs : s.state = .readPoll) (h : readPollStep s = .next t) :
    Transition .core s t := by
  unfold readPollStep at h
  split at h
  · cases h; exact .readDeadline hs ‹_›
  rename_i hd
  have hd : deadlinePassed s = false := by simpa using hd
  split at h
  · rename_i hr; cases h; exact .readUnreadable hs hd (by simpa using hr)
  rename_i hr
  have hr : s.answers.readable = true := by simpa using hr
  split at h
  · cases h; exact .readNone hs hd hr ‹_›
  rename_i x hx
  rw [readAppend_eq] at h
  obtain ⟨hc, ht⟩ := orOverflow_next.mp h
  split at ht
  · rename_i hm
    cases ht
    rw [readFinish_eq]
    split
    · split
      · exact .readFrame hs hd hr hx hc hm ‹_› ‹_›
      · exact .readNoFrame hs hd hr hx hc hm ‹_› (by simp [*])
    · rename_i hf; exact .readUnframed hs hd hr hx hc hm (by simpa using hf)
  · rename_i hm; cases ht; exact .readChunk hs hd hr hx hc (by omega)

/-- What a poll of READ_RAW can do. -/
theorem rawPollStep_cases {s t : State} (hs : s.state = .rawPoll) (h : rawPollStep s = .next t) :
    Transition .core s t := by
  unfold rawPollStep at h
  split at h
  · cases h; exact .rawDeadline hs ‹_›
  rename_i hd
  have hd : deadlinePassed s = false := by simpa using hd
  split at h
  · rename_i hr; cases h; exact .rawUnreadable hs hd (by simpa using hr)
  rename_i hr
  have hr : s.answers.readable = true := by simpa using hr
  split at h <;> cases h
  · exact .rawChunk hs hd hr ‹_› (by simp)
  · exact .rawNone hs hd hr (.inr ‹_›)
  · exact .rawNone hs hd hr (.inl ‹_›)

/-- Every next state of a move is one of `Transition`. -/
theorem moveResult_cases {m : Move} {s t : State} (h : moveResult m s = .next t) : Transition m s t := by
  cases m with
  | request r =>
    simp only [moveResult, fetchMove, fetchRequest] at h
    split at h
    · rename_i i s' hg
      split at hg
      · split at hg <;> cases hg; exact request_cases ‹_› ‹_› h
      · cases hg
    · rename_i r' hg
      split at hg
      · split at hg <;> cases hg; cases h
      · cases hg; cases h
  | core =>
    simp only [moveResult, fetchMove, fetchCore] at h
    cases hs : s.state <;> simp only [hs] at h
    case idle => cases h; exact .noStep (.inl hs)
    case readPoll => exact readPollStep_cases hs h
    case rawPoll => exact rawPollStep_cases hs h
    case readFlushAwait => cases h; exact .noStep (.inr (by rw [hs]; decide))
    case writeAwait => cases h; exact .noStep (.inr (by rw [hs]; decide))
    case seqCommitAwait => cases h; exact .noStep (.inr (by rw [hs]; decide))
    case seqWait =>
      unfold seqWaitStep at h
      split at h <;> cases h
      · exact .waitEnd hs ‹_›
      · rename_i hw; exact .waitMore hs (by simpa using hw)
    case seqRun =>
      unfold fetchCommand at h
      split at h
      · rename_i hg
        split at hg
        · cases hg
        rename_i hi
        split at hg <;> cases hg
        rename_i c hc
        cases c <;> cases h
        · exact .setDTR hs hi hc
        · exact .setRTS hs hi hc
        · exact .commit hs hi hc
        · exact .waitStart hs hi hc
      · rename_i hg
        split at hg
        · cases hg; cases h; exact .sequenceEnd hs ‹_›
        split at hg <;> cases hg
        cases h
  | tick =>
    simp only [moveResult, fetchMove, State.tick] at h
    split at h <;> cases h
    · exact .tickRead (.inl ‹_›)
    · exact .tickRead (.inr ‹_›)
    · exact .tickWait ‹_›
    all_goals exact .tickIdle (by simp [*]) (by simp [*]) (by simp [*])
  | channel a => cases h; exact .answers
  | ack k r =>
    simp only [moveResult, fetchMove, ackStep] at h
    split at h
    · rename_i hk
      subst hk
      cases hs : s.state <;> simp only [hs] at h
      case readFlushAwait => cases h; exact .flushed hs
      case writeAwait => cases r <;> cases h; exact .written hs; exact .writeFailed hs
      case seqCommitAwait => cases r <;> cases h; exact .committed hs; exact .commitFailed hs
      all_goals cases h; exact .late (.inl (by simp [hs]))
    · cases h; exact .late (.inr ‹_›)
  | blockReset => cases h; exact .reset
  | present b => cases h; exact .present
  | codec =>
    simp only [moveResult, fetchMove, fetchSlip] at h
    split at h
    · rename_i i s' hg
      split at hg <;> cases hg
      rename_i rest ht
      rw [exec_slipToken ht] at h
      cases h; exact .codecToken ht
    · rename_i hg
      split at hg <;> cases hg
      cases h; exact .codecEnd (slipToken_eq_none ‹_›)

/-! ### The converse: every transition is a next state -/

theorem orOverflow_of {fits : Bool} (h : fits = true) (r : Result) : orOverflow fits r = r := by
  rw [orOverflow, if_pos h]

theorem moveResult_request {s : State} {r : Request} {i : Instr} (hs : s.state = .idle)
    (hd : decodeRequest r = .ok i) : moveResult (.request r) s = exec i s := by
  simp only [moveResult, fetchMove, fetchRequest, hs, hd, if_true]

/-- A request outside IDLE is refused: HOST has no such move. -/
theorem moveResult_requestOutsideIdle {s : State} {r : Request} (hs : s.state ≠ .idle) :
    moveResult (.request r) s = .refused (.requestOutsideIdle r.opcode) := by
  simp only [moveResult, fetchMove, fetchRequest, if_neg hs]

theorem moveResult_readPoll {s : State} (hs : s.state = .readPoll) : moveResult .core s = readPollStep s := by
  simp only [moveResult, fetchMove, fetchCore, hs]

theorem moveResult_rawPoll {s : State} (hs : s.state = .rawPoll) : moveResult .core s = rawPollStep s := by
  simp only [moveResult, fetchMove, fetchCore, hs]

theorem moveResult_command {s : State} {c : Command} (hs : s.state = .seqRun) (hi : s.idx ≠ s.n)
    (hc : s.seq[s.idx]? = some c) : moveResult .core s = exec c.toInstr s := by
  simp only [moveResult, fetchMove, fetchCore, hs, fetchCommand, if_neg hi, hc]

theorem moveResult_ack {s : State} {r : Ack} : moveResult (.ack s.issued r) s = (match s.state with
    | .readFlushAwait => flushAcked r (s.record (.ack s.issued r))
    | .writeAwait => writeAcked r (s.record (.ack s.issued r))
    | .seqCommitAwait => commitAcked r (s.record (.ack s.issued r))
    | .idle | .readPoll | .rawPoll | .seqRun | .seqWait => .next (lateAck s.issued r s)) := by
  cases h : s.state <;> simp only [moveResult, fetchMove, ackStep, if_true, h]

/-- An appended chunk, with the poll's guards met. -/
theorem readPollStep_append {s : State} {x : Bytes} (hd : deadlinePassed s = false) (hr : s.answers.readable = true)
    (hx : s.answers.chunk = some x) (hc : within s.params.bufCap (s.acc.length + x.length) = true) :
    readPollStep s = if s.minBytes.toNat ≤ s.acc.length + x.length then
        .next { s.askReadable.pollChunk with acc := s.acc ++ x }.readFinish
      else .next { s.askReadable.pollChunk with acc := s.acc ++ x } := by
  rw [readPollStep, if_neg (by rw [hd]; decide), if_neg (by rw [hr]; decide), hx]
  simp only [readAppend_eq, orOverflow_of hc]

/-- Every transition is a next state: the converse of `moveResult_cases`. -/
theorem moveResult_of {m : Move} {s t : State} (h : Transition m s t) : moveResult m s = .next t := by
  cases h with
  | encodeFrame hs hd hf => rw [moveResult_request hs hd]; exact orOverflow_of hf _
  | decodeFrame hs hd hf => rw [moveResult_request hs hd]; exact orOverflow_of hf _
  | readFast hs hd hf hdec =>
    rw [moveResult_request hs hd, exec, execRead_eq, if_pos, hdec]
    rw [hf]
    cases hl : s.leftover with
    | nil => rw [hl, slipDecode_nil] at hdec; cases hdec
    | cons => rfl
  | readLoop hs hd h =>
    rw [moveResult_request hs hd, exec, execRead_eq]
    split
    · rename_i hg
      rcases h with h | h
      · simp [h] at hg
      · rw [slipDecode_none h]
    · rfl
  | rawDrain hs hd h => rw [moveResult_request hs hd, exec, execReadRaw_eq, if_neg (by simpa using h)]
  | rawLoop hs hd h => rw [moveResult_request hs hd, exec, execReadRaw_eq, if_pos (by simpa using h)]
  | write hs hd hf hw => rw [moveResult_request hs hd, exec, execWriteFrame_eq, orOverflow_of hf, if_pos hw]
  | unwritable hs hd hf hw =>
    rw [moveResult_request hs hd, exec, execWriteFrame_eq, orOverflow_of hf, if_neg (by simpa using hw)]
  | classicReset hs hd | usbJtagSerialReset hs hd | hardReset hs hd | setFraming hs hd | notifyConnect hs hd
  | reserved hs hd => rw [moveResult_request hs hd]; rfl
  | customReset hs hd hf hp | customInvalid hs hd hf hp =>
    rw [moveResult_request hs hd, exec, execCustomReset, orOverflow_of hf, hp]
  | validate hs hd hf => rw [moveResult_request hs hd]; exact orOverflow_of hf _
  | noStep h =>
    simp only [moveResult, fetchMove, fetchCore]
    rcases h with h | h | h | h <;> simp only [h]
  | readDeadline hs hd => rw [moveResult_readPoll hs, readPollStep, if_pos hd]
  | readUnreadable hs hd hr =>
    rw [moveResult_readPoll hs, readPollStep, if_neg (by rw [hd]; decide), if_pos (by rw [hr]; rfl)]
  | readNone hs hd hr hx =>
    rw [moveResult_readPoll hs, readPollStep, if_neg (by rw [hd]; decide), if_neg (by rw [hr]; decide), hx]
  | readChunk hs hd hr hx hc hm => rw [moveResult_readPoll hs, readPollStep_append hd hr hx hc, if_neg (by omega)]
  | readFrame hs hd hr hx hc hm hf hdec =>
    rw [moveResult_readPoll hs, readPollStep_append hd hr hx hc, if_pos hm, readFinish_eq, if_pos hf, hdec]
  | readNoFrame hs hd hr hx hc hm hf hdec =>
    rw [moveResult_readPoll hs, readPollStep_append hd hr hx hc, if_pos hm, readFinish_eq, if_pos hf, slipDecode_none hdec]
  | readUnframed hs hd hr hx hc hm hf =>
    rw [moveResult_readPoll hs, readPollStep_append hd hr hx hc, if_pos hm, readFinish_eq, if_neg (by simp [hf])]
  | rawDeadline hs hd => rw [moveResult_rawPoll hs, rawPollStep, if_pos hd]
  | rawUnreadable hs hd hr =>
    rw [moveResult_rawPoll hs, rawPollStep, if_neg (by rw [hd]; decide), if_pos (by rw [hr]; rfl)]
  | @rawChunk s x hs hd hr hx hne =>
    rw [moveResult_rawPoll hs, rawPollStep, if_neg (by rw [hd]; decide), if_neg (by rw [hr]; decide), hx]
    cases x with
    | nil => exact absurd rfl hne
    | cons => rfl
  | rawNone hs hd hr hx =>
    rw [moveResult_rawPoll hs, rawPollStep, if_neg (by rw [hd]; decide), if_neg (by rw [hr]; decide)]
    rcases hx with hx | hx <;> rw [hx]
  | sequenceEnd hs hi => simp only [moveResult, fetchMove, fetchCore, hs, fetchCommand, if_pos hi]
  | setDTR hs hi hc | setRTS hs hi hc | commit hs hi hc | waitStart hs hi hc => rw [moveResult_command hs hi hc]; rfl
  | waitEnd hs h => simp only [moveResult, fetchMove, fetchCore, hs, seqWaitStep, if_pos h]
  | waitMore hs h => simp only [moveResult, fetchMove, fetchCore, hs, seqWaitStep, if_neg (BitVec.not_le.mpr h)]
  | tickRead h => rcases h with h | h <;> simp only [moveResult, fetchMove, State.tick, h]
  | tickWait h => simp only [moveResult, fetchMove, State.tick, h]
  | tickIdle h1 h2 h3 => simp only [moveResult, fetchMove, State.tick]; split <;> simp_all
  | answers | reset | present => rfl
  | flushed hs | written hs | writeFailed hs | committed hs | commitFailed hs => rw [moveResult_ack, hs]; rfl
  | late h =>
    simp only [moveResult, fetchMove, ackStep]
    split
    · rename_i hk
      split <;> first | rfl | simp_all [CoreState.awaits]
    · rfl
  | codecToken h => simp only [moveResult, fetchMove, fetchSlip, h, exec_slipToken h]
  | codecEnd h => simp only [moveResult, fetchMove, fetchSlip, h, slipToken]
/-- A move answers a next state exactly when it makes a transition to it. -/
theorem moveResult_iff {m : Move} {s t : State} : moveResult m s = .next t ↔ Transition m s t :=
  ⟨moveResult_cases, moveResult_of⟩

/-- Everything a step can do when it answers a next state. -/
theorem step_cases {s t : State} (h : step s = .next t) : Transition (takeMove s).1 (takeMove s).2 t :=
  moveResult_cases h

end Sys2Proof.Machine
end

