-- ==== Sys2Proof/Laws/PerInstr.lean ====
section
/-! SUPPORT. Every instruction stands under its rows of spec/opcode_table.json: the code the encoder writes for it
matches one of the rows of its mnemonic. -/

namespace Sys2Proof.Laws.TableRow

/-- The encoding class of a row (spec/30_encoding.md R60). -/
inductive Class where
  | host
  | dslToken
  | slip
  deriving DecidableEq

/-- A row of spec/opcode_table.json: its class, how many bytes it fixes bits of, its mask and its match. -/
structure Row where
  cls : Class
  bytes : Nat
  mask : Nat
  pattern : Nat
  deriving DecidableEq

/-- The rows of an instruction's mnemonic, copied from the table. LITERAL's row has no mask: "any byte except 0xC0 and
0xDB", which the statement adds. -/
def rows : Instr → List Row
  | .encodeFrame _ => [⟨.host, 1, 0xFF, 0x01⟩]
  | .decodeFrame _ => [⟨.host, 1, 0xFF, 0x02⟩]
  | .read _ _ => [⟨.host, 1, 0xFF, 0x03⟩]
  | .readRaw _ => [⟨.host, 1, 0xFF, 0x04⟩]
  | .writeFrame _ => [⟨.host, 1, 0xFF, 0x05⟩]
  | .classicReset _ => [⟨.host, 1, 0xFF, 0x06⟩]
  | .usbJtagSerialReset => [⟨.host, 1, 0xFF, 0x07⟩]
  | .hardReset _ => [⟨.host, 1, 0xFF, 0x08⟩]
  | .customReset _ => [⟨.host, 1, 0xFF, 0x09⟩]
  | .validateCustomResetSequence _ => [⟨.host, 1, 0xFF, 0x0A⟩]
  | .setFraming _ => [⟨.host, 1, 0xFF, 0x0B⟩]
  | .notifyConnect => [⟨.host, 1, 0xFF, 0x0C⟩]
  | .reserved _ =>
    [⟨.host, 1, 0xFF, 0x00⟩, ⟨.host, 1, 0xFF, 0x0D⟩, ⟨.host, 1, 0xFE, 0x0E⟩, ⟨.host, 1, 0xF0, 0x10⟩,
     ⟨.host, 1, 0xE0, 0x20⟩, ⟨.host, 1, 0xC0, 0x40⟩, ⟨.host, 1, 0x80, 0x80⟩]
  | .setDTR _ => [⟨.dslToken, 1, 0xFF, 0x44⟩]
  | .setRTS _ => [⟨.dslToken, 1, 0xFF, 0x52⟩]
  | .commit => [⟨.dslToken, 1, 0xFF, 0x53⟩]
  | .wait _ => [⟨.dslToken, 1, 0xFF, 0x57⟩]
  | .slipEnd => [⟨.slip, 1, 0xFF, 0xC0⟩]
  | .escEnd => [⟨.slip, 2, 0xFFFF, 0xDBDC⟩]
  | .escEsc => [⟨.slip, 2, 0xFFFF, 0xDBDD⟩]
  | .escLone => [⟨.slip, 1, 0xFF, 0xDB⟩]
  | .literal _ => [⟨.slip, 1, 0x00, 0x00⟩]

/-- The first bytes of a code as the table numbers them, the first byte high. -/
def headNumber : Nat → Bytes → Nat
  | 0, _ => 0
  | _ + 1, [] => 0
  | k + 1, x :: xs => 256 ^ k * x.toNat + headNumber k xs

/-- Whether a code matches a row. -/
def fits (c : Code) (r : Row) : Prop :=
  match c with
  | .request q => r.cls = .host ∧ headNumber r.bytes [q.opcode] &&& r.mask = r.pattern
  | .token t => r.cls = .dslToken ∧ headNumber r.bytes t &&& r.mask = r.pattern
  | .slip b => r.cls = .slip ∧ b.length = r.bytes ∧ headNumber r.bytes b &&& r.mask = r.pattern

/-- A well-formed instruction's code matches a row of its mnemonic. -/
def Statement (i : Instr) : Prop :=
  i.wf = true → (∃ r ∈ rows i, fits (encode i) r) ∧
    ∀ x, i = .literal x → encode i ≠ .slip [0xC0] ∧ encode i ≠ .slip [0xDB]

theorem encodeFrame (payload : Bytes) : Statement (.encodeFrame payload) :=
  fun _ => ⟨⟨_, .head _, rfl, by simp [headNumber]⟩, nofun⟩
theorem decodeFrame (buffer : Bytes) : Statement (.decodeFrame buffer) :=
  fun _ => ⟨⟨_, .head _, rfl, by simp [headNumber]⟩, nofun⟩
theorem read (timeoutMs minBytes : U32) : Statement (.read timeoutMs minBytes) :=
  fun _ => ⟨⟨_, .head _, rfl, by simp [headNumber]⟩, nofun⟩
theorem readRaw (timeoutMs : U32) : Statement (.readRaw timeoutMs) :=
  fun _ => ⟨⟨_, .head _, rfl, by simp [headNumber]⟩, nofun⟩
theorem writeFrame (payload : Bytes) : Statement (.writeFrame payload) :=
  fun _ => ⟨⟨_, .head _, rfl, by simp [headNumber]⟩, nofun⟩
theorem classicReset (delayMs : U32) : Statement (.classicReset delayMs) :=
  fun _ => ⟨⟨_, .head _, rfl, by simp [headNumber]⟩, nofun⟩
theorem usbJtagSerialReset : Statement .usbJtagSerialReset :=
  fun _ => ⟨⟨_, .head _, rfl, by simp [headNumber]⟩, nofun⟩
theorem hardReset (usingUsbOtg : Bool) : Statement (.hardReset usingUsbOtg) :=
  fun _ => ⟨⟨_, .head _, rfl, by simp [headNumber]⟩, nofun⟩
theorem customReset (sequence : Bytes) : Statement (.customReset sequence) :=
  fun _ => ⟨⟨_, .head _, rfl, by simp [headNumber]⟩, nofun⟩
theorem validateCustomResetSequence (sequence : Bytes) : Statement (.validateCustomResetSequence sequence) :=
  fun _ => ⟨⟨_, .head _, rfl, by simp [headNumber]⟩, nofun⟩
theorem setFraming (enable : Bool) : Statement (.setFraming enable) :=
  fun _ => ⟨⟨_, .head _, rfl, by simp [headNumber]⟩, nofun⟩
theorem notifyConnect : Statement .notifyConnect :=
  fun _ => ⟨⟨_, .head _, rfl, by simp [headNumber]⟩, nofun⟩

/-- Every reserved opcode matches one of the seven RESERVED rows. -/
theorem reserved_number : ∀ n : Fin 256, reservedOpcode (BitVec.ofFin n) = true →
    n.val &&& 0xFF = 0x00 ∨ n.val &&& 0xFF = 0x0D ∨ n.val &&& 0xFE = 0x0E ∨ n.val &&& 0xF0 = 0x10 ∨
    n.val &&& 0xE0 = 0x20 ∨ n.val &&& 0xC0 = 0x40 ∨ n.val &&& 0x80 = 0x80 := by
  decide +kernel

theorem reserved (opcode : Byte) : Statement (.reserved opcode) := by
  intro h
  refine ⟨?_, nofun⟩
  have hn : headNumber 1 [opcode] = opcode.toFin.val := by simp [headNumber]
  have := reserved_number opcode.toFin h
  simpa only [rows, List.mem_cons, List.not_mem_nil, or_false, exists_eq_or_imp, exists_eq_left, fits, encode, hn,
    true_and] using this

theorem setDTR (v : Bool) : Statement (.setDTR v) :=
  fun _ => ⟨⟨_, .head _, rfl, by simp [headNumber, printCommand]⟩, nofun⟩
theorem setRTS (v : Bool) : Statement (.setRTS v) :=
  fun _ => ⟨⟨_, .head _, rfl, by simp [headNumber, printCommand]⟩, nofun⟩
theorem commit : Statement .commit :=
  fun _ => ⟨⟨_, .head _, rfl, by simp [headNumber, printCommand]⟩, nofun⟩
theorem wait (n : U32) : Statement (.wait n) :=
  fun _ => ⟨⟨_, .head _, rfl, by simp [headNumber, printCommand]⟩, nofun⟩
theorem slipEnd : Statement .slipEnd :=
  fun _ => ⟨⟨_, .head _, rfl, rfl, by simp [headNumber]⟩, nofun⟩
theorem escEnd : Statement .escEnd :=
  fun _ => ⟨⟨_, .head _, rfl, rfl, by simp [headNumber]⟩, nofun⟩
theorem escEsc : Statement .escEsc :=
  fun _ => ⟨⟨_, .head _, rfl, rfl, by simp [headNumber]⟩, nofun⟩
theorem escLone : Statement .escLone :=
  fun _ => ⟨⟨_, .head _, rfl, rfl, by simp [headNumber]⟩, nofun⟩
theorem literal (x : Byte) : Statement (.literal x) := by
  intro h
  simp only [Instr.wf, Bool.and_eq_true, bne_iff_ne, ne_eq] at h
  refine ⟨⟨_, .head _, rfl, rfl, Nat.and_zero _⟩, fun y _ => ?_⟩
  simp only [encode, ne_eq, Code.slip.injEq, List.cons.injEq, and_true]
  exact h

end Sys2Proof.Laws.TableRow
end

