-- ==== Sys2Proof/Tests/Slice0.lean ====
section
/-! SUPPORT. Tests of the model. Expected results are those of spec/95_test_vectors.md, named beside each test, or are written
out by hand from the rule named there. The `witness_` theorems show inputs that meet the hypotheses of the statement they
name, for each of its clauses. -/

namespace Sys2Proof.Tests
open Sys2Proof.Machine

/-- What a result's next state shows. -/
def seen {α : Type} (r : Result) (f : State → α) : Option α :=
  match r with
  | .next t => some (f t)
  | .fault _ | .refused _ => none

/-- Whether a result is the fault BufferOverflow. -/
def overflows (r : Result) : Bool :=
  match r with
  | .fault .bufferOverflow => true
  | .fault .noCommand | .next _ | .refused _ => false

/-- The state after block reset, but in core state `c` and with a schedule. -/
def inState (c : CoreState) (ms : List Move) : State := { State.reset with state := c, moves := ms }

/-- The default parameters with both capacities `c`. -/
def capped (c : Nat) : Params := { Params.default with bufCap := some c, seqMaxLen := some c }

/-- A READ or READ_RAW that polls: its accumulator, deadline, minimum, timer, and CHANNEL's answers. -/
def polling (c : CoreState) (acc : Bytes) (t m : U32) (timer : U32) (a : Answers) : State :=
  { inState c [.core] with acc := acc, toMs := t, minBytes := m, tmrRd := timer, answers := a }

/-! ### WellFormed: an ill-formed term for each check -/

theorem test_wf_reserved : (Instr.reserved 0x01).wf = false ∧ (Instr.reserved 0x0C).wf = false := by decide
theorem test_wf_wait : (Instr.wait 0).wf = false := by decide
theorem test_wf_literal : (Instr.literal 0xC0).wf = false ∧ (Instr.literal 0xDB).wf = false := by decide
theorem test_wf_command : (Command.wait 0).wf = false := by decide

/-! ### Decoding: every constructor by a code written out from 30_encoding.md R65, R70-R75, R61, R62 -/

theorem test_decode_requests :
    decode false (.request ⟨0x01, [.bytes [0xC0]]⟩) = .ok (.encodeFrame [0xC0]) ∧
    decode false (.request ⟨0x02, [.bytes [0xC0]]⟩) = .ok (.decodeFrame [0xC0]) ∧
    decode false (.request ⟨0x03, [.u32 100, .u32 4]⟩) = .ok (.read 100 4) ∧
    decode false (.request ⟨0x04, [.u32 5]⟩) = .ok (.readRaw 5) ∧
    decode false (.request ⟨0x05, [.bytes []]⟩) = .ok (.writeFrame []) ∧
    decode false (.request ⟨0x06, [.u32 50]⟩) = .ok (.classicReset 50) := by decide
theorem test_decode_requests' :
    decode false (.request ⟨0x07, []⟩) = .ok .usbJtagSerialReset ∧
    decode false (.request ⟨0x08, [.bool true]⟩) = .ok (.hardReset true) ∧
    decode false (.request ⟨0x09, [.bytes [0x44, 0x39]]⟩) = .ok (.customReset [0x44, 0x39]) ∧
    decode false (.request ⟨0x0A, [.bytes [0x44, 0x39]]⟩) = .ok (.validateCustomResetSequence [0x44, 0x39]) ∧
    decode false (.request ⟨0x0B, [.bool false]⟩) = .ok (.setFraming false) ∧
    decode false (.request ⟨0x0C, []⟩) = .ok .notifyConnect := by decide
theorem test_decode_reserved :
    decode false (.request ⟨0x00, []⟩) = .ok (.reserved 0x00) ∧
    decode false (.request ⟨0x0D, [.u32 1]⟩) = .ok (.reserved 0x0D) ∧
    decode false (.request ⟨0xFF, []⟩) = .ok (.reserved 0xFF) := by decide
theorem test_decode_tokens :
    decode false (.token [0x44, 0x30]) = .ok (.setDTR false) ∧
    decode false (.token [0x52, 0x31]) = .ok (.setRTS true) ∧
    decode false (.token [0x53]) = .ok .commit ∧
    decode false (.token [0x57, 0x31, 0x30, 0x30]) = .ok (.wait 100) := by decide
theorem test_decode_slip :
    decode false (.slip [0xC0]) = .ok .slipEnd ∧ decode false (.slip [0xDB, 0xDC]) = .ok .escEnd ∧
    decode false (.slip [0xDB, 0xDD]) = .ok .escEsc ∧ decode false (.slip [0xDB]) = .ok .escLone ∧
    decode false (.slip [0xDC]) = .ok (.literal 0xDC) := by decide
/-- Each rejection by its name. -/
theorem test_decode_rejects :
    decode false (.request ⟨0x03, [.u32 1]⟩) = .error (.operandTypes 0x03) ∧
    decode false (.token []) = .error .emptyToken ∧ decode false (.token [0x58, 0x31]) = .error (.unknownCommand 0x58) ∧
    decode false (.token [0x44, 0x32]) = .error .badBit ∧ decode false (.token [0x57, 0x2D, 0x35]) = .error .badDigits ∧
    decode false (.token [0x57, 0x30]) = .error .durationRange ∧ decode true (.token [0x53, 0x78]) = .error .strictTail ∧
    decode false (.slip []) = .error .noSlipToken ∧ decode false (.slip [0xC0, 0x01]) = .error .trailingBytes := by decide
/-- DV-6, DV-7, DV-8: the ends of a duration's range. -/
theorem test_duration_range :
    decodeToken false (ascii "W007") = .ok (.wait 7) ∧
    decodeToken false (ascii "W4294967295") = .ok (.wait 4294967295) ∧
    decodeToken false (ascii "W4294967296") = .error .durationRange := by decide +kernel
/-- DV-1 to DV-5 and DV-9 to DV-25. -/
theorem test_validation_vectors :
    (["S", "D1", "R0|S", "S|S", "W1", "Sx", "S0|D1"].all fun s => valid false (ascii s)) = true ∧
    (["W000", "W", "W+5", "W 5", "W5x", "D", "D01", "d0", "", "D0|", "|D0", "D0||S", "D0 |S", "D1|R1|X"].any
      fun s => valid false (ascii s)) = false ∧
    valid true (ascii "Sx") = false := by decide +kernel

/-! ### The opcode table's numbers -/

theorem test_table_requests :
    decodeTableWord 8 0x01 = some (.encodeFrame []) ∧ decodeTableWord 8 0x03 = some (.read 0 0) ∧
    decodeTableWord 8 0x08 = some (.hardReset false) ∧ decodeTableWord 8 0x0C = some .notifyConnect ∧
    decodeTableWord 8 0x0E = some (.reserved 0x0E) ∧ decodeTableWord 8 0x80 = some (.reserved 0x80) := by decide
theorem test_table_tokens :
    decodeTableWord 8 0x44 = some (.setDTR false) ∧ decodeTableWord 8 0x52 = some (.setRTS false) ∧
    decodeTableWord 8 0x53 = some .commit ∧ decodeTableWord 8 0xC0 = some .slipEnd ∧
    decodeTableWord 16 0xDBDC = some .escEnd ∧ decodeTableWord 16 0xDBDD = some .escEsc ∧
    decodeTableWord 8 0xDB = some .escLone := by decide
/-- The digit-string operand of zero is no Wait (30_encoding.md R73; log 3). -/
theorem test_table_wait : decodeTableWord 8 0x57 = none := by decide
theorem test_fetch_word :
    seen (step (State.reset.withFetchWord 8 0x03)) (·.state) = some .readPoll ∧
    seen (step (State.reset.withFetchWord 8 0x53)) (·.history) = some [.seqCmd .commit, .setLines false false] ∧
    seen (step (State.reset.withFetchWord 8 0xC0)) (·.codec.inFrame) = some true ∧
    seen (step (State.reset.withFetchWord 8 0xFF)) (·.refusalMark) = some true := by decide

/-! ### Instructions and continuations, one step each -/

/-- SE-5. -/
theorem test_encode_frame :
    seen (exec (.encodeFrame [0x01, 0xC0, 0xDB, 0x02]) State.reset) (fun t => (t.responses, t.history)) =
      some ([⟨.ok, .bytes, false, [0xC0, 0x01, 0xDB, 0xDC, 0xDB, 0xDD, 0x02, 0xC0], []⟩], []) := by decide
/-- The two host forms of section 2.2. -/
theorem test_decode_frame :
    seen (exec (.decodeFrame [0x05, 0xC0, 0x01, 0xC0, 0x07]) State.reset) (·.responses) =
      some [⟨.ok, .decoded, true, [0x01], [0x07]⟩] ∧
    seen (exec (.decodeFrame [0xC0, 0x01]) State.reset) (·.responses) =
      some [⟨.ok, .decoded, false, [], [0xC0, 0x01]⟩] := by decide
/-- SD-10, SD-11, SD-12, SD-15. -/
theorem test_decode_vectors :
    slipDecode [0xC0, 0xDB, 0x01, 0xC0] = (some [0xDB, 0x01], []) ∧
    slipDecode [0xC0, 0x01, 0xDB, 0xC0] = (some [0x01, 0xDB], []) ∧
    slipDecode [0xC0, 0xDB, 0xDB, 0xDC, 0xC0] = (some [0xDB, 0xC0], []) ∧
    slipDecode [0xC0, 0x01, 0xC0, 0x02, 0xC0] = (some [0x01], [0x02, 0xC0]) := by decide
/-- FR-1. -/
theorem test_read_fast_path :
    seen (exec (.read 0 12) { State.reset with leftover := [0xC0, 0x01, 0xC0, 0x05] })
      (fun t => (t.responses, t.leftover, t.history, t.state)) =
      some ([⟨.ok, .frame, false, [0x01], []⟩], [0x05], [], .idle) := by decide
/-- FR-15: READ enters its loop with ACC beyond MIN. -/
theorem test_read_enters_loop :
    seen (exec (.read 0 4) { State.reset with leftover := [1, 2, 3, 4, 5] })
      (fun t => (t.state, t.acc, t.leftover)) = some (.readPoll, [1, 2, 3, 4, 5], []) := by decide
/-- FR-2, its poll step. -/
theorem test_read_finish :
    seen (step (polling .readPoll [0xC0, 0x01] 0 4 0 ⟨true, false, some [0x02, 0xC0, 0x09]⟩))
      (fun t => (t.responses, t.leftover, t.acc, t.history)) =
      some ([⟨.ok, .frame, false, [0x01, 0x02], []⟩], [0x09], [],
        [.isReadable true, .readChunk (some [0x02, 0xC0, 0x09])]) := by decide
/-- FR-14: the deadline comes before the query. -/
theorem test_read_deadline :
    seen (step (polling .readPoll [0xC0, 0x01] 2 12 2 ⟨true, false, some [0x02]⟩))
      (fun t => (t.state, t.leftover, t.acc, t.history)) =
      some (.readFlushAwait, [0xC0, 0x01], [], [.flush]) := by decide
/-- FR-9: a failed flush is not reported. -/
theorem test_read_timeout :
    seen (step { inState .readFlushAwait [.ack 1 .err] with issued := 1, leftover := [0xC0, 0x01] })
      (fun t => (t.responses, t.leftover, t.state)) =
      some ([⟨.timeout, .none, false, [], []⟩], [0xC0, 0x01], .idle) := by decide
/-- RR-4. -/
theorem test_read_raw_drain :
    seen (exec (.readRaw 5) { State.reset with leftover := [0xC0, 0x01] })
      (fun t => (t.responses, t.leftover, t.history)) =
      some ([⟨.ok, .raw, false, [0xC0, 0x01], []⟩], [], []) := by decide
/-- RR-1, RR-3: an empty chunk goes on; a deadline passes without a flush. -/
theorem test_read_raw_poll :
    seen (step (polling .rawPoll [] 0 0 0 ⟨true, false, some []⟩)) (fun t => (t.state, t.responses)) =
      some (.rawPoll, []) ∧
    seen (step (polling .rawPoll [] 2 0 2 ⟨true, false, none⟩)) (fun t => (t.responses, t.history)) =
      some ([⟨.timeout, .none, false, [], []⟩], []) := by decide
/-- WF-1, WF-5. -/
theorem test_write_frame :
    seen (exec (.writeFrame [0x01, 0xC0]) { State.reset with answers := ⟨false, true, none⟩, leftover := [0xC0, 0x09] })
      (fun t => (t.history, t.state, t.issued, t.leftover)) =
      some ([.isWritable true, .write [0xC0, 0x01, 0xDB, 0xDC, 0xC0]], .writeAwait, 1, [0xC0, 0x09]) := by decide
/-- WF-3, both settings. -/
theorem test_write_unwritable :
    seen (exec (.writeFrame [0x01]) State.reset) (·.responses) = some [⟨.ok, .none, false, [], []⟩] ∧
    seen (exec (.writeFrame [0x01]) { State.reset with params := { Params.default with writeWhenUnwritable := .error } })
      (·.responses) = some [⟨.channelError, .none, false, [], []⟩] := by decide
/-- WF-2. -/
theorem test_write_failed :
    seen (step { inState .writeAwait [.ack 1 .err] with issued := 1 }) (·.responses) =
      some [⟨.channelError, .none, false, [], []⟩] := by decide
/-- ST-1 and ST-2: the lists and their error mode. -/
theorem test_classic_reset :
    seen (exec (.classicReset 50) State.reset) (fun t => (t.seq.length, t.seq[7]?, t.errmode, t.state)) =
      some (10, some (.wait 50), .propagate, .seqRun) ∧
    seen (exec (.classicReset 0) State.reset) (fun t => (t.n, t.seq[7]?)) = some (9, some (.setDTR false)) := by decide
/-- ST-3. -/
theorem test_usb_jtag_serial_reset :
    seen (exec .usbJtagSerialReset State.reset) (fun t => lineUpdates false false t.seq) =
      some [.setLines false false, .setLines true false, .setLines false true, .setLines false false] := by decide
/-- ST-4, ST-5. -/
theorem test_hard_reset :
    seen (exec (.hardReset true) State.reset) (·.seq) = some [.wait 200, .setRTS false, .commit, .wait 200] ∧
    seen (exec (.hardReset false) State.reset) (·.seq) = some [.wait 100, .setRTS false, .commit] := by decide
/-- ST-9 and ST-7: an invalid string runs none of its tokens; a valid one runs in error mode WRAP. -/
theorem test_custom_reset :
    seen (exec (.customReset (ascii "D1|R1|X")) State.reset)
      (fun t => (t.responses, t.history, t.pendDtr, t.state)) =
      some ([⟨.ok, .none, false, [], []⟩], [], false, .idle) ∧
    seen (exec (.customReset (ascii "R1|S|S")) State.reset) (fun t => (t.seq, t.n, t.errmode)) =
      some ([.setRTS true, .commit, .commit], 3, .wrap) := by decide +kernel
/-- DV-22, DV-23. -/
theorem test_validate :
    seen (exec (.validateCustomResetSequence (ascii "Sx")) State.reset) (·.responses) =
      some [⟨.ok, .bool, true, [], []⟩] ∧
    seen (exec (.validateCustomResetSequence (ascii "Sx"))
      { State.reset with params := { Params.default with sArgStrict := true } }) (·.responses) =
      some [⟨.ok, .bool, false, [], []⟩] := by decide +kernel
/-- CF-1. -/
theorem test_set_framing :
    seen (exec (.setFraming false) { State.reset with leftover := [0xC0, 0x01, 0x02] })
      (fun t => (t.framingEn, t.leftover, t.responses)) =
      some (false, [0xC0, 0x01, 0x02], [⟨.ok, .none, false, [], []⟩]) := by decide
/-- CF-2. -/
theorem test_notify_connect :
    seen (exec .notifyConnect { State.reset with leftover := [0x05], pendDtr := true })
      (fun t => (t.leftover, t.pendDtr, t.pendRts, t.history)) = some ([], true, false, []) := by decide
/-- 93_implementation_defined.md U14: stuck at a request outside IDLE. -/
theorem test_request_outside_idle :
    step (inState .writeAwait [.request ⟨0x0C, []⟩]) = .refused (.requestOutsideIdle 0x0C) := rfl
/-- CF-3. -/
theorem test_reserved :
    seen (exec (.reserved 0xFF) State.reset) (fun t => (t.refusalMark, t.responses, t.isHardware)) =
      some (true, [], false) := by decide
/-- 42_line_controller.md R125. -/
theorem test_set_dtr :
    seen (exec (.setDTR true) (inState .seqRun [])) (fun t => (t.pendDtr, t.pendRts, t.idx, t.history)) =
      some (true, false, 1, [.seqCmd (.setDTR true)]) := by decide
/-- 42_line_controller.md R126. -/
theorem test_set_rts :
    seen (exec (.setRTS true) (inState .seqRun [])) (fun t => (t.pendDtr, t.pendRts, t.idx, t.history)) =
      some (false, true, 1, [.seqCmd (.setRTS true)]) := by decide
/-- ST-1: the first `sl(0,1)`. -/
theorem test_commit :
    seen (exec .commit { inState .seqRun [] with pendRts := true, idx := 2 })
      (fun t => (t.history, t.state, t.idx)) =
      some ([.seqCmd .commit, .setLines false true], .seqCommitAwait, 2) := by decide
/-- ST-6, ST-7: a failed Commit in each error mode. -/
theorem test_commit_failed :
    seen (step { inState .seqCommitAwait [.ack 2 .err] with issued := 2, errmode := .propagate }) (·.responses) =
      some [⟨.channelError, .none, false, [], []⟩] ∧
    seen (step { inState .seqCommitAwait [.ack 2 .err] with issued := 2, errmode := .wrap }) (·.responses) =
      some [⟨.invalidSequence, .none, false, [], []⟩] := by decide
/-- ST-11: Wait starts. -/
theorem test_wait :
    seen (exec (.wait 5) { inState .seqRun [] with tmrW := 9 }) (fun t => (t.waitN, t.tmrW, t.state, t.idx)) =
      some (5, 0, .seqWait, 0) := by decide
/-- ST-11: 4 < 5 waits on, and 5 >= 5 goes on. -/
theorem test_wait_ends :
    seen (step { inState .seqWait [.core] with waitN := 5, tmrW := 4 }) (fun t => (t.state, t.idx)) =
      some (.seqWait, 0) ∧
    seen (step { inState .seqWait [.core] with waitN := 5, tmrW := 5 }) (fun t => (t.state, t.idx)) =
      some (.seqRun, 1) := by decide
/-- A SLIP token inside an open frame, and a marker at its end (40_slip_codec.md R88, R89). -/
theorem test_slip_tokens :
    seen (exec .escEnd { State.reset with codec := ⟨[], true, [1], []⟩ }) (·.codec.body) = some [1, 0xC0] ∧
    seen (exec .escEsc { State.reset with codec := ⟨[], true, [1], []⟩ }) (·.codec.body) = some [1, 0xDB] ∧
    seen (exec .escLone { State.reset with codec := ⟨[], true, [1], []⟩ }) (·.codec.body) = some [1, 0xDB] ∧
    seen (exec (.literal 0xDD) { State.reset with codec := ⟨[], true, [1], []⟩ }) (·.codec.body) = some [1, 0xDD] ∧
    seen (exec .slipEnd { State.reset with codec := ⟨[], true, [1], []⟩ }) (·.codec.frames) = some [[1]] := by decide
/-- CF-4. -/
theorem test_block_reset :
    seen (step { inState .readPoll [.blockReset] with acc := [0xC0, 0x01], framingEn := false })
      (fun t => (t.state, t.acc, t.leftover, t.framingEn)) = some (.idle, [], [], true) ∧
    seen (step { inState .readPoll [.blockReset] with acc := [0xC0, 0x01], framingEn := false })
      (fun t => (t.responses, t.history)) = some ([], []) := by decide
/-- CF-5: the late acknowledgement is discarded. -/
theorem test_late_ack :
    seen (step { inState .idle [.ack 1 .ok] with issued := 1 }) (fun t => (t.state, t.responses)) =
      some (.idle, []) := by decide
/-- 10_state.md R32: the timers saturate, and only the running one counts. -/
theorem test_tick :
    seen (step { inState .readPoll [.tick] with tmrRd := 0xFFFFFFFF }) (fun t => (t.tmrRd, t.tmrW)) =
      some (0xFFFFFFFF, 0) ∧
    seen (step (inState .seqWait [.tick])) (fun t => (t.tmrRd, t.tmrW)) = some (0, 1) := by decide
/-- 60_exceptions.md R182, at the capacity and one beyond it. -/
theorem test_overflow :
    overflows (exec (.encodeFrame [1]) { State.reset with params := capped 0 }) = true ∧
    overflows (exec (.encodeFrame []) { State.reset with params := capped 0 }) = false ∧
    overflows (step { polling .readPoll [1] 0 9 0 ⟨true, false, some [2, 3]⟩ with params := capped 2 }) = true := by
  decide
/-- Section 3, P1: its requests as they are written and encoded. -/
theorem test_program_text :
    assembleProgram (ascii "NOTIFY_CONNECT\nSET_FRAMING 1\nWRITE_FRAME [0x01, 0xC0]\nREAD 100, 4") =
      some [⟨0x0C, []⟩, ⟨0x0B, [.bool true]⟩, ⟨0x05, [.bytes [0x01, 0xC0]]⟩, ⟨0x03, [.u32 100, .u32 4]⟩] := by
  decide +kernel

/-! ### Witnesses: the hypotheses of each statement that has some, for each of its clauses -/

theorem witness_DecodeOfEncodeIsTheInstruction :
    (Instr.wait 1).wf = true ∧ (Instr.wait 0xFFFFFFFF).wf = true ∧ (Instr.reserved 0x00).wf = true ∧
    (Instr.reserved 0x0D).wf = true ∧ (Instr.literal 0xDC).wf = true ∧ (Instr.read 0xFFFFFFFF 0).wf = true := by decide
theorem witness_ParseOfPrintIsTheList :
    ∃ cs : List Command, cs ≠ [] ∧ ∀ c ∈ cs, c.wf = true := ⟨[.wait 0xFFFFFFFF, .commit], by decide⟩
theorem witness_OneInvalidTokenInvalidatesTheString :
    ∃ b : Byte, b ≠ 0x44 ∧ b ≠ 0x52 ∧ b ≠ 0x57 ∧ b ≠ 0x53 := ⟨0x58, by decide⟩
theorem witness_EncodeEscapesEachByte : ∃ x : Byte, x ≠ 0xC0 ∧ x ≠ 0xDB := ⟨0xDC, by decide⟩
/-- SD-1, SD-3, SD-5. -/
theorem witness_DecodeTakesTheFirstCompleteFrame :
    (∃ b : Bytes, ∀ i : Nat, b[i]? ≠ some (0xC0 : Byte)) ∧
    (∃ (b : Bytes) (s : Nat), b[s]? = some (0xC0 : Byte) ∧ (∀ i : Nat, i < s → b[i]? ≠ some (0xC0 : Byte)) ∧
      ∀ j : Nat, s < j → b[j]? ≠ some (0xC0 : Byte)) ∧
    ∃ (b : Bytes) (s e : Nat), b[s]? = some (0xC0 : Byte) ∧ (∀ i : Nat, i < s → b[i]? ≠ some (0xC0 : Byte)) ∧
      s < e ∧ b[e]? = some (0xC0 : Byte) ∧ ∀ j : Nat, s < j → j < e → b[j]? ≠ some (0xC0 : Byte) :=
  ⟨⟨[], by simp⟩, ⟨[0xC0], 0, by simp, by simp, fun j hj => by cases j <;> simp at hj ⊢⟩,
    [0xC0, 0xC0], 0, 1, by simp, by simp, by simp, by simp, by omega⟩
theorem witness_UnescapeReversesPairsAndKeepsLoneEscapes :
    ∃ (b : Byte) (rest : Bytes), ¬ (b = 0xDB ∧ (rest.head? = some 0xDC ∨ rest.head? = some 0xDD)) :=
  ⟨0xDB, [0xDB, 0xDC], by decide⟩
theorem witness_BytesBeforeTheStartMarker :
    (∃ g b f r : Bytes, 0xC0 ∉ g ∧ slipDecode (0xC0 :: b) = (some f, r)) ∧
    ∃ g b : Bytes, 0xC0 ∉ g ∧ (slipDecode (0xC0 :: b)).1 = none :=
  ⟨⟨[0x11], [0x33, 0xC0], [0x33], [], by decide⟩, [0x11], [0x33], by decide⟩
theorem witness_DelimitersAreNotShared :
    ∃ b1 b2 b3 : Bytes, 0xC0 ∉ b1 ∧ 0xC0 ∉ b2 ∧ 0xC0 ∉ b3 := ⟨[0x01], [0x02], [0x03], by decide⟩
theorem witness_NoFrameReturnsTheBufferUnchanged :
    ∃ b r : Bytes, slipDecode b = (none, r) := ⟨[0x05, 0xC0, 0x01], _, rfl⟩
theorem witness_TokenMeaningsRefineDecode :
    (∃ (b f r : Bytes) (s : State), s.codec.inFrame = false ∧ slipDecode b = (some f, r)) ∧
    ∃ (b : Bytes) (s : State), s.codec.inFrame = false ∧ (slipDecode b).1 = none :=
  ⟨⟨[0xC0, 0xC0, 0x07], [], [0x07], State.reset, by decide⟩, [0xC0, 0xDB], State.reset, by decide⟩
theorem witness_SlipTokensComplete :
    (∃ s : State, s.codec.inFrame = false) ∧ ∃ s : State, s.codec.inFrame = true :=
  ⟨⟨State.reset, rfl⟩, { State.reset with codec := ⟨[], true, [], []⟩ }, rfl⟩
theorem witness_EncodeFrameAnswersTheEncodedFrame :
    ∃ (payload : Bytes) (s : State), ∀ c, s.params.bufCap = some c → payload.length ≤ c :=
  ⟨[0xC0], { State.reset with params := capped 1 }, fun c h => by cases h; decide⟩
theorem witness_DecodeFrameAnswersTheDecodeResult :
    (∃ (b x r : Bytes) (s : State), (∀ c, s.params.bufCap = some c → b.length ≤ c) ∧ slipDecode b = (some x, r)) ∧
    ∃ (b r : Bytes) (s : State), (∀ c, s.params.bufCap = some c → b.length ≤ c) ∧ slipDecode b = (none, r) :=
  ⟨⟨[0xC0, 0xC0], [], [], { State.reset with params := capped 2 }, fun c h => by cases h; decide, by decide⟩,
    [], [], State.reset, nofun, rfl⟩
theorem witness_OnlyAFiniteCapacityOverflows :
    (∃ (b : Bytes) (s : State) (c : Nat), s.params.bufCap = some c ∧ s.params.seqMaxLen = some c ∧ c < b.length) ∧
    ∃ s : State, s.params.bufCap = none ∧ s.params.seqMaxLen = none :=
  ⟨⟨[0x53], { State.reset with params := capped 0 }, 0, by decide⟩, State.reset, by decide⟩
theorem witness_ReadAcceptance :
    (∃ (s : State) (x r : Bytes), s.framingEn = true ∧ slipDecode s.leftover = (some x, r)) ∧
    (∃ s : State, s.framingEn = false) ∧ ∃ s : State, (slipDecode s.leftover).1 = none :=
  ⟨⟨{ State.reset with leftover := [0xC0, 0xC0] }, [], [], by decide⟩, ⟨{ State.reset with framingEn := false }, rfl⟩,
    State.reset, rfl⟩
/-- TMR_RD one tick below the deadline, and TO = 0; the capacity just kept, and just exceeded. -/
theorem witness_ReadPollBelowTheThreshold :
    (∃ s : State, s.state = .readPoll ∧ s.moves = [.core] ∧ ¬ (0 < s.toMs ∧ s.toMs ≤ s.tmrRd) ∧
      s.answers.readable = false) ∧
    (∃ s : State, s.state = .readPoll ∧ s.moves = [.core] ∧ ¬ (0 < s.toMs ∧ s.toMs ≤ s.tmrRd) ∧
      s.answers.readable = true ∧ s.answers.chunk = none) ∧
    (∃ (s : State) (x : Bytes) (c : Nat), s.state = .readPoll ∧ s.moves = [.core] ∧
      ¬ (0 < s.toMs ∧ s.toMs ≤ s.tmrRd) ∧ s.answers.readable = true ∧ s.answers.chunk = some x ∧
      s.params.bufCap = some c ∧ c < s.acc.length + x.length) ∧
    ∃ (s : State) (x : Bytes), s.state = .readPoll ∧ s.moves = [.core] ∧
      ¬ (0 < s.toMs ∧ s.toMs ≤ s.tmrRd) ∧ s.answers.readable = true ∧ s.answers.chunk = some x ∧
      (∀ c, s.params.bufCap = some c → s.acc.length + x.length ≤ c) ∧ (s.acc ++ x).length < s.minBytes.toNat :=
  ⟨⟨polling .readPoll [] 5 12 4 ⟨false, false, none⟩, by decide⟩,
    ⟨polling .readPoll [] 0 12 9 ⟨true, false, none⟩, by decide⟩,
    ⟨{ polling .readPoll [1] 0 12 0 ⟨true, false, some [2]⟩ with params := capped 1 }, [2], 1, by decide⟩,
    { polling .readPoll [1] 0 3 0 ⟨true, false, some [2]⟩ with params := capped 2 }, [2], rfl, rfl, by decide, rfl, rfl,
    fun c h => by cases h; decide, by decide⟩
/-- The append that just reaches MIN: with a frame, without one, and with framing disabled. -/
theorem witness_ReadFinishesWhenMinIsReached :
    ∃ (s : State) (x : Bytes), s.state = .readPoll ∧ s.moves = [.core] ∧ ¬ (0 < s.toMs ∧ s.toMs ≤ s.tmrRd) ∧
      s.answers.readable = true ∧ s.answers.chunk = some x ∧
      (∀ c, s.params.bufCap = some c → s.acc.length + x.length ≤ c) ∧ s.minBytes.toNat ≤ (s.acc ++ x).length ∧
      s.framingEn = true ∧ slipDecode (s.acc ++ x) = (some [], []) :=
  ⟨polling .readPoll [0xC0] 0 2 0 ⟨true, false, some [0xC0]⟩, [0xC0], rfl, rfl, by decide, rfl, rfl, nofun,
    by decide, rfl, by decide⟩
theorem witness_ReadFinishesWhenMinIsReached' :
    (∃ (s : State) (x : Bytes), s.state = .readPoll ∧ s.moves = [.core] ∧ ¬ (0 < s.toMs ∧ s.toMs ≤ s.tmrRd) ∧
      s.answers.readable = true ∧ s.answers.chunk = some x ∧
      (∀ c, s.params.bufCap = some c → s.acc.length + x.length ≤ c) ∧ s.minBytes.toNat ≤ (s.acc ++ x).length ∧
      s.framingEn = true ∧ (slipDecode (s.acc ++ x)).1 = none) ∧
    ∃ (s : State) (x : Bytes), s.state = .readPoll ∧ s.moves = [.core] ∧ ¬ (0 < s.toMs ∧ s.toMs ≤ s.tmrRd) ∧
      s.answers.readable = true ∧ s.answers.chunk = some x ∧
      (∀ c, s.params.bufCap = some c → s.acc.length + x.length ≤ c) ∧ s.minBytes.toNat ≤ (s.acc ++ x).length ∧
      s.framingEn = false :=
  ⟨⟨polling .readPoll [] 0 0 0 ⟨true, false, some []⟩, [], rfl, rfl, by decide, rfl, rfl, nofun, by decide, rfl,
      by decide⟩,
    { polling .readPoll [] 0 1 0 ⟨true, false, some [1]⟩ with framingEn := false }, [1], rfl, rfl, by decide, rfl,
    rfl, nofun, by decide, rfl⟩
theorem witness_ReadTimeoutKeepsBytesAndFlushes :
    (∃ s : State, s.state = .readPoll ∧ s.moves = [.core] ∧ 0 < s.toMs ∧ s.toMs ≤ s.tmrRd) ∧
    (∃ s : State, s.state = .readFlushAwait ∧ s.moves = [.ack s.issued .err]) ∧
    ∃ (s : State) (m : Move), s.state = .readFlushAwait ∧ s.moves = [m] ∧ m ≠ .blockReset ∧
      (∀ r, m ≠ .ack s.issued r) ∧ ∀ r, m ≠ .request r :=
  ⟨⟨polling .readPoll [1] 1 12 1 ⟨true, false, some [2]⟩, by decide⟩,
    ⟨{ inState .readFlushAwait [.ack 1 .err] with issued := 1 }, rfl, rfl⟩,
    { inState .readFlushAwait [.ack 1 .err] with issued := 2 }, .ack 1 .err, rfl, rfl, by decide,
    fun r => by cases r <;> decide, nofun⟩
/-- FR-6: a READ that polls once. -/
theorem witness_ReadAccountsForEveryByte :
    ∃ (s s' u : State) (r : Response), exec (.read 0 12) s = .next s' ∧ s'.state = .readPoll ∧ s'.noResetFor 1 ∧
      run 0 s' = .next s' ∧ step s' = .next u ∧ u.responses = s'.responses ++ [r] :=
  ⟨{ inState .idle [.core] with leftover := [0xC0, 0x01] }, _, _, _, rfl, rfl, ⟨by decide, by decide⟩, rfl, rfl, rfl⟩
/-- One tick of a deadline of two, and no deadline at all; a READ and a READ_RAW. -/
theorem witness_NoTimeoutBeforeTheDeadline :
    (∃ s t : State, s.state = .readPoll ∧ s.tmrRd = 0 ∧ s.noResetFor 2 ∧ run 1 s = .next t ∧
      t.responses = s.responses ∧ s.ticksIn 1 < s.toMs.toNat) ∧
    ∃ s t : State, s.state = .rawPoll ∧ s.tmrRd = 0 ∧ s.noResetFor 2 ∧ run 1 s = .next t ∧
      t.responses = s.responses ∧ s.toMs = 0 :=
  ⟨⟨{ inState .readPoll [.tick, .core] with toMs := 2 }, _, rfl, rfl, ⟨by decide, by decide⟩, rfl, rfl, by decide⟩,
    inState .rawPoll [.tick, .core], _, rfl, rfl, ⟨by decide, by decide⟩, rfl, rfl, rfl⟩
/-- The frames of FR-12, each case with its whole schedule: both frames with the first READ's second chunk; then the same
bytes cut inside the second frame, which the second READ completes with its second chunk. -/
theorem witness_TwoFramesInChunksAreReadInOrder :
    (∃ (p1 p2 kept : Bytes) (m : U32) (s : State) (w : Bool) (before1 : List Bytes) (last1 : Bytes),
      (s.state = .idle ∧ s.framingEn = true ∧ s.leftover = [] ∧ s.params.bufCap = none) ∧
      (before1 ++ [last1]).flatten = slipEncode p1 ++ kept ∧ FirstReaches m.toNat 0 before1 last1 ∧
      kept = slipEncode p2 ∧
      s.moves = .request ⟨0x03, [.u32 0, .u32 m]⟩ :: pollMoves w (before1 ++ [last1]) ++
        [.request ⟨0x03, [.u32 0, .u32 m]⟩]) ∧
    ∃ (p1 p2 kept : Bytes) (m : U32) (s : State) (w : Bool) (before1 before2 : List Bytes) (last1 last2 : Bytes),
      (s.state = .idle ∧ s.framingEn = true ∧ s.leftover = [] ∧ s.params.bufCap = none) ∧
      (before1 ++ [last1]).flatten = slipEncode p1 ++ kept ∧ FirstReaches m.toNat 0 before1 last1 ∧
      kept.length < (slipEncode p2).length ∧ kept ++ (before2 ++ [last2]).flatten = slipEncode p2 ∧
      FirstReaches m.toNat kept.length before2 last2 ∧
      s.moves = .request ⟨0x03, [.u32 0, .u32 m]⟩ :: pollMoves w (before1 ++ [last1]) ++
        .request ⟨0x03, [.u32 0, .u32 m]⟩ :: pollMoves w (before2 ++ [last2]) := by
  have reaches : ∀ (m start : Nat) (c last : Bytes), start + c.length < m → m ≤ start + c.length + last.length →
      FirstReaches m start [c] last := by
    refine fun m start c last hc hl => ⟨fun q hq hne => ?_, by simpa [Nat.add_assoc] using hl⟩
    obtain rfl | ⟨t, rfl, ht⟩ := List.prefix_cons_iff.mp hq
    · exact absurd rfl hne
    · simpa [List.prefix_nil.mp ht] using hc
  exact ⟨⟨[0x01], [0x10, 0x11], [0xC0, 0x10, 0x11, 0xC0], 7,
      inState .idle (.request ⟨0x03, [.u32 0, .u32 7]⟩ ::
        pollMoves false [[0xC0, 0x01], [0xC0, 0xC0, 0x10, 0x11, 0xC0]] ++ [.request ⟨0x03, [.u32 0, .u32 7]⟩]),
      false, [[0xC0, 0x01]], [0xC0, 0xC0, 0x10, 0x11, 0xC0], by decide, by decide,
      reaches _ _ _ _ (by decide) (by decide), by decide, rfl⟩,
    [0x01], [0x10, 0x11], [0xC0], 4,
    inState .idle (.request ⟨0x03, [.u32 0, .u32 4]⟩ :: pollMoves false [[0xC0], [0x01, 0xC0, 0xC0]] ++
      .request ⟨0x03, [.u32 0, .u32 4]⟩ :: pollMoves false [[0x10], [0x11, 0xC0]]),
    false, [[0xC0]], [[0x10]], [0x01, 0xC0, 0xC0], [0x11, 0xC0], by decide, by decide,
    reaches _ _ _ _ (by decide) (by decide), by decide, by decide, reaches _ _ _ _ (by decide) (by decide), rfl⟩
theorem witness_ReadRawAcceptance :
    (∃ s : State, 0 < s.leftover.length) ∧ ∃ s : State, s.leftover = [] :=
  ⟨⟨{ State.reset with leftover := [0xC0] }, by decide⟩, State.reset, rfl⟩
theorem witness_ReadRawPoll :
    (∃ s : State, s.state = .rawPoll ∧ s.moves = [.core] ∧ 0 < s.toMs ∧ s.toMs ≤ s.tmrRd) ∧
    (∃ s : State, s.state = .rawPoll ∧ s.moves = [.core] ∧ ¬ (0 < s.toMs ∧ s.toMs ≤ s.tmrRd) ∧
      s.answers.readable = false) ∧
    (∃ (s : State) (x : Bytes), s.state = .rawPoll ∧ s.moves = [.core] ∧ ¬ (0 < s.toMs ∧ s.toMs ≤ s.tmrRd) ∧
      s.answers.readable = true ∧ s.answers.chunk = some x ∧ x ≠ []) ∧
    ∃ s : State, s.state = .rawPoll ∧ s.moves = [.core] ∧ ¬ (0 < s.toMs ∧ s.toMs ≤ s.tmrRd) ∧
      s.answers.readable = true ∧ s.answers.chunk = some [] :=
  ⟨⟨polling .rawPoll [] 1 0 1 ⟨true, false, some [2]⟩, by decide⟩,
    ⟨polling .rawPoll [] 2 0 1 ⟨false, false, none⟩, by decide⟩,
    ⟨polling .rawPoll [] 0 0 9 ⟨true, false, some [2]⟩, [2], by decide⟩,
    polling .rawPoll [] 0 0 0 ⟨true, false, some []⟩, by decide⟩
theorem witness_WriteFrameIssuesOneWrite :
    (∃ s : State, (∀ c, s.params.bufCap = some c → [(1 : Byte)].length ≤ c) ∧ s.answers.writable = true) ∧
    (∃ s : State, (∀ c, s.params.bufCap = some c → [(1 : Byte)].length ≤ c) ∧ s.answers.writable = false ∧
      s.params.writeWhenUnwritable = .skipOk) ∧
    ∃ s : State, (∀ c, s.params.bufCap = some c → [(1 : Byte)].length ≤ c) ∧ s.answers.writable = false ∧
      s.params.writeWhenUnwritable = .error :=
  ⟨⟨{ State.reset with params := capped 1, answers := ⟨false, true, none⟩ }, fun c h => by cases h; decide, rfl⟩,
    ⟨State.reset, nofun, rfl, rfl⟩,
    { State.reset with params := { Params.default with writeWhenUnwritable := .error } }, nofun, rfl, rfl⟩
theorem witness_WriteFrameCompletesAtItsAck :
    ∃ s : State, s.state = .writeAwait ∧ s.moves = [.ack s.issued .ok] :=
  ⟨{ inState .writeAwait [.ack 1 .ok] with issued := 1 }, rfl, rfl⟩
theorem witness_CommitCompletesAtItsAck :
    (∃ s : State, s.state = .seqCommitAwait ∧ s.moves = [.ack s.issued .ok]) ∧
    ∃ s : State, s.state = .seqCommitAwait ∧ s.moves = [.ack s.issued .err] :=
  ⟨⟨{ inState .seqCommitAwait [.ack 3 .ok] with issued := 3 }, rfl, rfl⟩,
    { inState .seqCommitAwait [.ack 3 .err] with issued := 3 }, rfl, rfl⟩
theorem witness_WaitStartsAndEnds :
    (∃ s : State, s.moves = [.core] ∧ s.state = .seqWait ∧ s.waitN ≤ s.tmrW) ∧
    (∃ s : State, s.moves = [.core] ∧ s.state = .seqWait ∧ s.tmrW < s.waitN) ∧
    ∃ s : State, s.moves = [.core] ∧ s.state = .seqRun ∧ s.idx = s.n :=
  ⟨⟨{ inState .seqWait [.core] with waitN := 5, tmrW := 5 }, by decide⟩,
    ⟨{ inState .seqWait [.core] with waitN := 5, tmrW := 4 }, by decide⟩, inState .seqRun [.core], by decide⟩
theorem witness_WaitLastsAtLeastItsTicks :
    ∃ s0 s : State, exec (.wait 3) s0 = .next s ∧ s.noResetFor 3 ∧ s.noRequestFor 3 ∧
      s.ticksIn 3 < (3 : U32).toNat :=
  ⟨inState .seqRun [.tick, .core, .tick], _, rfl, ⟨by decide, by decide⟩, nofun, by decide⟩
theorem witness_StrategiesLoadTheirLists : ∃ d : U32, d ≠ 0 := ⟨1, by decide⟩
theorem witness_CustomResetStartsOrDoesNothing :
    (∃ (q : Bytes) (s : State) (cs : List Command), (∀ c, s.params.seqMaxLen = some c → q.length ≤ c) ∧
      parse s.params.sArgStrict q = some cs) ∧
    ∃ (q : Bytes) (s : State), (∀ c, s.params.seqMaxLen = some c → q.length ≤ c) ∧
      parse s.params.sArgStrict q = none :=
  ⟨⟨[0x53], { State.reset with params := capped 1 }, [.commit], fun c h => by cases h; decide, by decide⟩,
    [], State.reset, nofun, by decide⟩
theorem witness_ValidateAnswersValidity :
    ∃ (q : Bytes) (s : State), ∀ c, s.params.seqMaxLen = some c → q.length ≤ c :=
  ⟨[0x53], { State.reset with params := capped 1 }, fun c h => by cases h; decide⟩
theorem witness_StrategyStrings : ∃ d : U32, d ≠ 0 := ⟨0xFFFFFFFF, by decide⟩

/-- A custom sequence of one Commit that has just started. -/
def oneCommit (ms : List Move) : State := (inState .idle ms).start [.commit] .wrap

theorem oneCommit_inv (ms : List Move) : Inv { oneCommit ms with op := 0x09 } := by
  constructor <;> simp [oneCommit, inState, State.start, State.reset, Params.default, within, Command.wf, State.sequencing]

/-- ST-7 in small: its Commit is issued, and its acknowledgement, Ok or Err, ends the sequence. -/
theorem witness_SequenceRunsInListOrderToItsEnd :
    ∃ (s t u : State) (r : Response), Inv s ∧ s.state = .seqRun ∧ s.idx = 0 ∧ s.noResetFor 2 ∧ run 1 s = .next t ∧
      t.responses = s.responses ∧ step t = .next u ∧ u.responses = s.responses ++ [r] :=
  ⟨{ oneCommit [.core, .ack 1 .err] with op := 0x09 }, _, _, _, oneCommit_inv _, rfl, rfl,
    ⟨by decide, by decide⟩, rfl, rfl, rfl, rfl⟩
theorem witness_SequenceRunsInListOrderToItsEnd' :
    ∃ (s t u : State) (r : Response), Inv s ∧ s.state = .seqRun ∧ s.idx = 0 ∧ s.noResetFor 3 ∧ run 2 s = .next t ∧
      t.responses = s.responses ∧ step t = .next u ∧ u.responses = s.responses ++ [r] :=
  ⟨{ oneCommit [.core, .ack 1 .ok, .core] with op := 0x09 }, _, _, _, oneCommit_inv _, rfl, rfl,
    ⟨by decide, by decide⟩, rfl, rfl, rfl, rfl⟩
theorem witness_SequenceIssuesExactlyItsLineUpdates :
    ∃ s t : State, Inv s ∧ s.state = .seqRun ∧ s.noResetFor 1 ∧ run 1 s = .next t ∧ t.responses = s.responses :=
  ⟨{ oneCommit [.core] with op := 0x09 }, _, oneCommit_inv _, rfl, ⟨by decide, by decide⟩, rfl, rfl⟩
theorem witness_ErrorModeChangesOnlyTheReport :
    ∃ s t u : State, s.sequencing ∧ s.noResetFor 2 ∧ run 1 s = .next t ∧ t.responses = s.responses ∧
      step t = .next u :=
  ⟨{ oneCommit [.core, .ack 1 .err] with op := 0x09 }, _, _, .inl rfl, ⟨by decide, by decide⟩, rfl, rfl, rfl⟩
theorem witness_BlockResetFromAnyState : ∃ s : State, s.moves = [.blockReset] := ⟨inState .seqCommitAwait [.blockReset], rfl⟩
theorem witness_ReservedOpcodeOnlySetsTheMark :
    ((0x00 : Byte) = 0x00 ∨ 0x0D ≤ (0x00 : Byte).toNat) ∧ ((0x0D : Byte) = 0x00 ∨ 0x0D ≤ (0x0D : Byte).toNat) ∧
    ∃ s : State, s.state = .idle ∧ s.moves = [.request ⟨0x0D, []⟩] :=
  ⟨by decide, by decide, inState .idle [.request ⟨0x0D, []⟩], rfl, rfl⟩
theorem witness_StepRunsTheDecodedInstruction :
    (∃ (s : State) (r : Request) (i : Instr), s.state = .idle ∧ s.moves = [.request r] ∧
      decode s.params.sArgStrict (.request r) = .ok i) ∧
    (∃ (s : State) (r : Request), s.state ≠ .idle ∧ s.moves = [.request r]) ∧
    (∃ (s : State) (t : Bytes) (c : Command) (i : Instr), s.state = .seqRun ∧ s.moves = [.core] ∧ s.idx ≠ s.n ∧
      s.seq[s.idx]? = some c ∧ decodeToken s.params.sArgStrict t = .ok c ∧
      decode s.params.sArgStrict (.token t) = .ok i) ∧
    ∃ (s : State) (i : Instr) (rest : Bytes), s.moves = [.codec] ∧ slipToken s.codec.input = some (i, rest) :=
  ⟨⟨inState .idle [.request ⟨0x0C, []⟩], ⟨0x0C, []⟩, .notifyConnect, by decide⟩,
    ⟨inState .readPoll [.request ⟨0x0C, []⟩], ⟨0x0C, []⟩, by decide⟩,
    ⟨oneCommit [.core], [0x53], .commit, .commit, by decide⟩,
    { inState .idle [.codec] with codec := Codec.start [0xDB, 0xDC, 0xC0] }, .escEnd, [0xC0], by decide⟩
theorem witness_TickIncrementsTheRunningTimer :
    (∃ s : State, s.moves = [.tick] ∧ s.state = .rawPoll) ∧ (∃ s : State, s.moves = [.tick] ∧ s.state = .seqWait) ∧
    ∃ s : State, s.moves = [.tick] ∧ s.state ≠ .readPoll ∧ s.state ≠ .rawPoll ∧ s.state ≠ .seqWait :=
  ⟨⟨inState .rawPoll [.tick], by decide⟩, ⟨inState .seqWait [.tick], by decide⟩,
    inState .readFlushAwait [.tick], by decide⟩
theorem witness_OnlyTheAwaitedAckMovesCore :
    (∃ (s : State) (m : Move), s.moves = [m] ∧ s.state.awaits ∧ m ≠ .blockReset ∧
      (∀ r, m ≠ .ack s.issued r) ∧ ∀ r, m ≠ .request r) ∧
    (∃ (s : State) (r : Request), s.moves = [.request r] ∧ s.state.awaits) ∧
    ∃ (s : State) (k : Nat) (r : Ack), s.moves = [.ack k r] ∧ (¬ s.state.awaits ∨ k ≠ s.issued) :=
  ⟨⟨{ inState .writeAwait [.ack 1 .ok] with issued := 2 }, .ack 1 .ok, rfl, by decide, by decide, fun r => by cases r <;> decide, nofun⟩,
    ⟨inState .seqCommitAwait [.request ⟨0x0C, []⟩], ⟨0x0C, []⟩, rfl, by decide⟩,
    inState .idle [.ack 1 .ok], 1, .ok, rfl, by decide⟩
theorem witness_OneResponseEndsAnOperation :
    (∃ s t : State, step s = .next t ∧ s.state ≠ .idle ∧ t.state = .idle ∧ t.responses = s.responses) ∧
    ∃ (s t : State) (r : Response), step s = .next t ∧ t.responses = s.responses ++ [r] :=
  ⟨⟨inState .readPoll [.blockReset], _, rfl, by decide, rfl, rfl⟩,
    inState .seqRun [.core], _, _, rfl, rfl⟩
theorem witness_RecordsOnlyGrow :
    ∃ s t : State, step s = .next t ∧ s.refusalMark = true :=
  ⟨{ inState .idle [.tick] with refusalMark := true }, _, rfl, rfl⟩
/-- A change of each register that the statement speaks of. -/
theorem witness_RegistersHaveOnlyTheirWriters :
    (∃ s t : State, step s = .next t ∧ (takeMove s).1 ≠ .blockReset ∧ t.framingEn ≠ s.framingEn) ∧
    (∃ s t : State, step s = .next t ∧ (takeMove s).1 ≠ .blockReset ∧ t.pendDtr ≠ s.pendDtr ∧ s.state ≠ .idle) ∧
    (∃ s t : State, step s = .next t ∧ (takeMove s).1 ≠ .blockReset ∧ t.pendRts ≠ s.pendRts) ∧
    (∃ s t : State, step s = .next t ∧ (takeMove s).1 ≠ .blockReset ∧ t.leftover ≠ s.leftover ∧ s.state = .idle) ∧
    ∃ s t : State, step s = .next t ∧ (takeMove s).1 ≠ .blockReset ∧ t.leftover ≠ s.leftover ∧
      s.state ≠ .seqRun ∧ s.state ≠ .seqWait ∧ s.state ≠ .seqCommitAwait ∧ s.state ≠ .idle :=
  ⟨⟨inState .idle [.request ⟨0x0B, [.bool false]⟩], _, rfl, by decide, by decide⟩,
    ⟨{ inState .seqRun [.core] with seq := [.setDTR true], n := 1 }, _, rfl, by decide, by decide, by decide⟩,
    ⟨{ inState .seqRun [.core] with seq := [.setRTS true], n := 1 }, _, rfl, by decide, by decide⟩,
    ⟨{ inState .idle [.request ⟨0x0C, []⟩] with leftover := [1] }, _, rfl, by decide, by decide, rfl⟩,
    polling .readPoll [1] 1 1 1 ⟨true, false, none⟩, _, rfl, by decide, by decide, by decide⟩
theorem witness_EveryStepKeepsTheInvariant :
    ∃ s t : State, Inv s ∧ step s = .next t ∧ s.state = .seqRun ∧ t.state = .seqCommitAwait :=
  ⟨{ oneCommit [.core] with op := 0x09 }, _, oneCommit_inv _, rfl, rfl, rfl⟩

end Sys2Proof.Tests
end

section
/-! PROOF. How an operation ends (spec/00_scope.md R11, spec/60_exceptions.md R172): the transitions of a move are those
that deliver one response and lead to IDLE, and those that deliver none and reach IDLE from an active STATE only by block
reset. -/

namespace Sys2Proof.Machine

/-- Whichever WRITE_WHEN_UNWRITABLE is set, a channel that is not writable is answered with one response. -/
theorem unwritable_eq_respond (s : State) : ∃ r, s.unwritable = s.respond r := by
  unfold State.unwritable
  split
  · exact ⟨_, done_eq s⟩
  · exact ⟨_, raise_eq s _⟩

theorem lateAck_responses (k : Nat) (r : Ack) (s : State) : (lateAck k r s).responses = s.responses := by
  rcases lateAck_eq k r s with h | h <;> rw [h]
  exact record_responses s _

theorem lateAck_state (k : Nat) (r : Ack) (s : State) : (lateAck k r s).state = s.state := by
  rcases lateAck_eq k r s with h | h <;> rw [h]
  exact record_state s _

theorem takeMove_responses (s : State) : (takeMove s).2.responses = s.responses := by
  obtain ⟨ms, d, h⟩ := takeMove_frame s
  rw [h]

theorem takeMove_state (s : State) : (takeMove s).2.state = s.state := by
  obtain ⟨ms, d, h⟩ := takeMove_frame s
  rw [h]

/-- A transition delivers one response and CORE is in IDLE; or it delivers none, and then CORE is in IDLE after it only if
it was so before, or by block reset. -/
theorem Transition.responds_or_keeps {m : Move} {s t : State} (h : Transition m s t) :
    (∃ r, t.responses = s.responses ++ [r] ∧ t.state = .idle) ∨
    (t.responses = s.responses ∧ (t.state = .idle → s.state = .idle ∨ m = .blockReset)) := by
  cases h with
  -- one response, which leads to IDLE
  | encodeFrame | decodeFrame | readFast | rawDrain | customInvalid | validate | setFraming | notifyConnect
  | readUnreadable | readFrame | readNoFrame | readUnframed | rawDeadline | rawUnreadable | rawChunk | sequenceEnd
  | flushed | written | writeFailed | commitFailed => exact .inl ⟨_, rfl, rfl⟩
  | unwritable =>
    obtain ⟨r, hr⟩ := unwritable_eq_respond (s.accept 0x05).askWritable
    rw [hr]
    exact .inl ⟨r, rfl, rfl⟩
  -- no response, into an active STATE
  | readLoop | rawLoop | write | classicReset | usbJtagSerialReset | hardReset | customReset | readDeadline | commit
  | waitStart | waitEnd | committed => exact .inr ⟨rfl, nofun⟩
  -- no response, and STATE as it was
  | reserved | noStep | readNone | readChunk | rawNone | setDTR | setRTS | waitMore | tickRead | tickWait | tickIdle
  | answers | present | codecToken | codecEnd => exact .inr ⟨rfl, .inl⟩
  | @late _ k r =>
    refine .inr ⟨lateAck_responses k r s, fun hi => .inl ?_⟩
    rwa [lateAck_state] at hi
  | reset => exact .inr ⟨rfl, fun _ => .inr rfl⟩

/-- Settles O55: by the cases of a transition, since taking the move changes neither the responses nor STATE. -/
theorem oneResponseEndsAnOperation : Obligations.OneResponseEndsAnOperation := by
  intro s t hstep
  have hends := (step_cases hstep).responds_or_keeps
  rw [takeMove_responses, takeMove_state] at hends
  rcases hends with ⟨r, hr, hidle⟩ | ⟨hr, hkeeps⟩
  · have hnew : t.responses ≠ s.responses := by simp [hr]
    exact ⟨.inr ⟨r, hr, hidle⟩, fun _ _ hsame => absurd hsame hnew⟩
  · exact ⟨.inl hr, fun hactive hidle _ => (hkeeps hidle).resolve_left hactive⟩

end Sys2Proof.Machine
end

section
/-! PROOF. The running timer (spec/10_state.md R32). -/

namespace Sys2Proof.Machine

/-- The saturating increment in numbers. -/
theorem saturatingSucc_eq (t : U32) : saturatingSucc t = BitVec.ofNat 32 (min (t.toNat + 1) (2 ^ 32 - 1)) := by
  apply BitVec.eq_of_toNat_eq
  rw [toNat_saturatingSucc, BitVec.toNat_ofNat, Nat.mod_eq_of_lt (by omega)]

/-- Settles O53: a step whose move is a tick makes one of the three transitions of a tick, and each increment is the
saturating one. -/
theorem tickIncrementsTheRunningTimer : Obligations.TickIncrementsTheRunningTimer := by
  intro s ms hmoves
  rw [step_cons hmoves, ← saturatingSucc_eq, ← saturatingSucc_eq]
  exact ⟨fun hpolls => moveResult_of (.tickRead hpolls), fun hwaits => moveResult_of (.tickWait hwaits),
    fun hread hraw hwait => moveResult_of (.tickIdle hread hraw hwait)⟩

end Sys2Proof.Machine
end

section
/-! PROOF. The writers of the persistent registers, of SEQ, N and IDX (spec/10_state.md R21, R25-R28, R30): a transition
other than block reset leaves all of them as they are, or makes one of the writes that `PersistentWrite` lists. -/

namespace Sys2Proof.Machine

/-- The registers that keep their values between operations and that only named operations write. -/
structure Persistent where
  framingEn : Bool
  pendDtr : Bool
  pendRts : Bool
  leftover : Bytes
  seq : List Command
  n : Nat
  idx : Nat

/-- The persistent registers of a state. -/
@[simp] def State.persistent (s : State) : Persistent := ⟨s.framingEn, s.pendDtr, s.pendRts, s.leftover, s.seq, s.n, s.idx⟩

/-- The requests that write LEFTOVER (10_state.md R21). -/
def WritesLeftover (i : Instr) : Prop := (∃ a b, i = .read a b) ∨ (∃ a, i = .readRaw a) ∨ i = .notifyConnect

/-- What a move other than block reset writes of the persistent registers, `p` before it and `q` after it, with the guard
of each write; `c` is STATE before it. -/
inductive PersistentWrite (c : CoreState) (p q : Persistent) : Move → Prop
  | keep {m} : q = p → PersistentWrite c p q m
  | framing {r e} : c = .idle → decodeRequest r = .ok (.setFraming e) → q = { p with framingEn := e } →
      PersistentWrite c p q (.request r)
  | leftoverAtRequest {r i} (l : Bytes) : c = .idle → decodeRequest r = .ok i → WritesLeftover i →
      q = { p with leftover := l } → PersistentWrite c p q (.request r)
  | leftoverAtPoll (l : Bytes) : c = .readPoll → q = { p with leftover := l } → PersistentWrite c p q .core
  | load {m} (cs : List Command) : c = .idle → q = { p with seq := cs, n := cs.length, idx := 0 } →
      PersistentWrite c p q m
  | dtr {v} : c = .seqRun → p.seq[p.idx]? = some (.setDTR v) → q = { p with pendDtr := v, idx := p.idx + 1 } →
      PersistentWrite c p q .core
  | rts {v} : c = .seqRun → p.seq[p.idx]? = some (.setRTS v) → q = { p with pendRts := v, idx := p.idx + 1 } →
      PersistentWrite c p q .core
  | advance {m} : c = .seqWait ∨ c = .seqCommitAwait → q = { p with idx := p.idx + 1 } → PersistentWrite c p q m

/-- The persistent registers of a state, one by one. -/
theorem persistent_eq_iff {t : State} {p : Persistent} :
    t.persistent = p ↔ t.framingEn = p.framingEn ∧ t.pendDtr = p.pendDtr ∧ t.pendRts = p.pendRts ∧
      t.leftover = p.leftover ∧ t.seq = p.seq ∧ t.n = p.n ∧ t.idx = p.idx := by
  cases p
  simp

theorem takeMove_persistent (s : State) : (takeMove s).2.persistent = s.persistent := by
  obtain ⟨ms, d, h⟩ := takeMove_frame s
  rw [h]
  rfl

theorem start_persistent (s : State) (cs : List Command) (mode : ErrMode) :
    (s.start cs mode).persistent = { s.persistent with seq := cs, n := cs.length, idx := 0 } := rfl

theorem lateAck_persistent (k : Nat) (r : Ack) (s : State) : (lateAck k r s).persistent = s.persistent := by
  rcases lateAck_eq k r s with h | h <;> rw [h]
  rfl

theorem unwritable_persistent (s : State) : s.unwritable.persistent = s.persistent := by
  obtain ⟨r, hr⟩ := unwritable_eq_respond s
  rw [hr]
  rfl

/-- Every transition other than block reset is one of the writes. -/
theorem Transition.persistentWrite {m : Move} {s t : State} (h : Transition m s t) (hm : m ≠ .blockReset) :
    PersistentWrite s.state s.persistent t.persistent m := by
  cases h with
  | reset => exact absurd rfl hm
  | setFraming hs hd => exact .framing hs hd (by simp)
  | @readFast _ _ _ _ _ rest hs hd => exact .leftoverAtRequest rest hs hd (.inl ⟨_, _, rfl⟩) (by simp)
  | readLoop hs hd => exact .leftoverAtRequest [] hs hd (.inl ⟨_, _, rfl⟩) (by simp)
  | rawDrain hs hd => exact .leftoverAtRequest [] hs hd (.inr (.inl ⟨_, rfl⟩)) (by simp)
  | notifyConnect hs hd => exact .leftoverAtRequest [] hs hd (.inr (.inr rfl)) (by simp)
  | readDeadline hs => exact .leftoverAtPoll s.acc hs (by simp)
  | @readFrame _ _ _ rest hs => exact .leftoverAtPoll rest hs (by simp)
  | readNoFrame hs => exact .leftoverAtPoll [] hs (by simp)
  | classicReset hs | usbJtagSerialReset hs | hardReset hs | customReset hs =>
    exact .load _ hs (start_persistent _ _ _)
  | setDTR hs _ hc => exact .dtr hs hc (by simp)
  | setRTS hs _ hc => exact .rts hs hc (by simp)
  | waitEnd hs => exact .advance (.inl hs) (by simp)
  | committed hs => exact .advance (.inr hs) (by simp)
  | unwritable => exact .keep ((unwritable_persistent _).trans (by simp))
  | late => exact .keep (lateAck_persistent _ _ _)
  | encodeFrame | decodeFrame | rawLoop | write | customInvalid | validate | reserved | noStep | readUnreadable
  | readNone | readChunk | readUnframed | rawDeadline | rawUnreadable | rawChunk | rawNone | sequenceEnd | commit
  | waitStart | waitMore | tickRead | tickWait | tickIdle | answers | flushed | written | writeFailed | commitFailed
  | present | codecToken | codecEnd => exact .keep (by simp)

/-- The write of a step: taking the move writes none of the registers. -/
theorem step_persistentWrite {s t : State} (h : step s = .next t) (hm : (takeMove s).1 ≠ .blockReset) :
    PersistentWrite s.state s.persistent t.persistent (takeMove s).1 := by
  have hw := (step_cases h).persistentWrite hm
  rwa [takeMove_state, takeMove_persistent] at hw

/-- Settles O57: by the write of a step. A register that the write does not name is as it was, and one that it names comes
with the guard of its clause. -/
theorem registersHaveOnlyTheirWriters : Obligations.RegistersHaveOnlyTheirWriters := by
  intro s t hstep hm
  have hw := step_persistentWrite hstep hm
  generalize (takeMove s).1 = m at hw
  cases hw with
  | keep hp => simp [persistent_eq_iff.mp hp]
  | framing hs hd hp => simp [persistent_eq_iff.mp hp, hs, hd]
  | leftoverAtRequest l hs hd hi hp =>
    obtain ⟨hframing, hdtr, hrts, _, _, _, _⟩ := persistent_eq_iff.mp hp
    exact ⟨absurd hframing, absurd hdtr, absurd hrts, fun _ => .inr ⟨hs, _, _, rfl, hd, hi⟩, absurd hs,
      fun _ _ _ hactive => absurd hs hactive⟩
  | leftoverAtPoll l hs hp => simp [persistent_eq_iff.mp hp, hs]
  | load cs hs hp => simp [persistent_eq_iff.mp hp, hs]
  | dtr hs hc hp =>
    have hc : s.seq[s.idx]? = some _ := hc
    simp [persistent_eq_iff.mp hp, hs, hc]
  | rts hs hc hp =>
    have hc : s.seq[s.idx]? = some _ := hc
    simp [persistent_eq_iff.mp hp, hs, hc]
  | advance hs hp => rcases hs with hs | hs <;> simp [persistent_eq_iff.mp hp, hs]

end Sys2Proof.Machine
end

section
/-! PROOF. The invariant (spec/10_state.md sections 1 to 3): what `Inv` asks is a part about the sequence, a part about the
capacity of LEFTOVER, and a part chosen by STATE (`InState`); `Inv.of` puts the three together. A rule per state operation
says when it keeps the invariant, and a transition is made of these operations. -/

namespace Sys2Proof.Machine

/-! ### The invariant in three parts -/

/-- The relations of SEQ, N and IDX (10_state.md R28, R30; 30_encoding.md R66). -/
structure SequenceOk (seq : List Command) (n idx : Nat) : Prop where
  length : n = seq.length
  bound : idx ≤ n
  wf : ∀ c ∈ seq, c.wf = true

/-- OP and ERRMODE while a sequence runs (10_state.md R23, R29). -/
def SequenceMode (op : Byte) (mode : ErrMode) : Prop :=
  (op = 0x06 ∨ op = 0x07 ∨ op = 0x08 ∨ op = 0x09) ∧ (mode = .wrap ↔ op = 0x09)

/-- What the invariant asks of a state whose STATE is `c`, beside the sequence and the capacity of LEFTOVER. -/
def InState (s : State) : CoreState → Prop
  | .idle => s.acc = []
  | .readPoll => s.leftover = [] ∧ s.op = 0x03 ∧ within s.params.bufCap s.acc.length = true
  | .readFlushAwait => s.acc = [] ∧ s.op = 0x03 ∧ s.toMs ≠ 0
  | .rawPoll => s.acc = [] ∧ s.leftover = [] ∧ s.op = 0x04
  | .writeAwait => s.acc = [] ∧ s.op = 0x05
  | .seqRun => s.acc = [] ∧ SequenceMode s.op s.errmode
  | .seqWait => s.acc = [] ∧ SequenceMode s.op s.errmode ∧ s.seq[s.idx]? = some (.wait s.waitN)
  | .seqCommitAwait => s.acc = [] ∧ SequenceMode s.op s.errmode ∧ s.seq[s.idx]? = some .commit

theorem within_zero (cap : Option Nat) : within cap 0 = true := by
  rw [within_iff]
  exact fun _ _ => Nat.zero_le _

theorem Inv.sequenceOk {s : State} (h : Inv s) : SequenceOk s.seq s.n s.idx := ⟨h.seqLength, h.idxBound, h.seqWf⟩

theorem Inv.sequenceMode {s : State} (h : Inv s) (hs : s.sequencing) : SequenceMode s.op s.errmode :=
  ⟨h.opSequence hs, h.errmodeOf hs⟩

/-- The three parts give the invariant back. -/
theorem Inv.of {s : State} {c : CoreState} (hs : s.state = c) (hq : SequenceOk s.seq s.n s.idx)
    (hleft : within s.params.bufCap s.leftover.length = true) (hin : InState s c) : Inv s := by
  apply Inv.mk hq.length hq.bound hq.wf
  -- every other clause of `Inv` is about one STATE, and `InState` has it there
  all_goals cases c <;> simp_all [InState, SequenceMode, within_zero]

/-! ### What each state operation does to the invariant -/

theorem Inv.record {s : State} (h : Inv s) (e : Event) : Inv (s.record e) := { h with }

theorem Inv.pollChunk {s : State} (h : Inv s) : Inv s.pollChunk := { h with }

/-- In IDLE the opcode is free. -/
theorem Inv.accept {s : State} (h : Inv s) (hs : s.state = .idle) (opcode : Byte) : Inv (s.accept opcode) :=
  .of hs h.sequenceOk h.capacity.2 (h.accEmpty (by simp [hs]))

/-- In IDLE, TO and MIN are free: READ and READ_RAW latch their operands there. -/
theorem Inv.acceptRead {s : State} (h : Inv s) (hs : s.state = .idle) (timeoutMs minBytes : U32) :
    Inv { s.accept 0x03 with toMs := timeoutMs, minBytes := minBytes } :=
  .of hs h.sequenceOk h.capacity.2 (h.accEmpty (by simp [hs]))

theorem Inv.acceptReadRaw {s : State} (h : Inv s) (hs : s.state = .idle) (timeoutMs : U32) :
    Inv { s.accept 0x04 with toMs := timeoutMs } :=
  .of hs h.sequenceOk h.capacity.2 (h.accEmpty (by simp [hs]))

theorem Inv.setFramingEn {s : State} (h : Inv s) (enable : Bool) : Inv { s with framingEn := enable } := { h with }

/-- A response may come with a new LEFTOVER. -/
theorem Inv.deliver {s : State} (h : Inv s) (hacc : s.acc = []) {l : Bytes}
    (hl : within s.params.bufCap l.length = true) (r : Response) : Inv ({ s with leftover := l }.respond r) :=
  .of rfl h.sequenceOk hl hacc

theorem Inv.respond {s : State} (h : Inv s) (hacc : s.acc = []) (r : Response) : Inv (s.respond r) :=
  h.deliver hacc h.capacity.2 r

/-- ACC may be emptied at any time. -/
theorem Inv.emptyAcc {s : State} (h : Inv s) : Inv { s with acc := [] } :=
  { h with accEmpty := fun _ => rfl, capacity := ⟨within_zero _, h.capacity.2⟩ }

theorem Inv.emptyBuffers {s : State} (h : Inv s) : Inv { s with acc := [], leftover := [] } :=
  { h with
    accEmpty := fun _ => rfl, pollingLeftover := fun _ => rfl, capacity := ⟨within_zero _, within_zero _⟩ }

theorem Inv.unwritable {s : State} (h : Inv s) (hacc : s.acc = []) : Inv s.unwritable := by
  obtain ⟨r, hr⟩ := unwritable_eq_respond s
  rw [hr]
  exact h.respond hacc r

theorem Inv.lateAck {s : State} (h : Inv s) (k : Nat) (r : Ack) : Inv (lateAck k r s) := by
  rcases lateAck_eq k r s with hl | hl <;> rw [hl]
  · exact h
  · exact h.record _

theorem Inv.blockReset (s : State) : Inv s.blockReset :=
  .of rfl ⟨rfl, Nat.le_refl _, by simp⟩ (within_zero _) rfl

/-- A deadline that has passed is not 0 (60_exceptions.md R166). -/
theorem toMs_ne_zero_of_deadlinePassed {s : State} (h : deadlinePassed s = true) : s.toMs ≠ 0 := by
  obtain ⟨hpos, _⟩ := (deadlinePassed_iff s).mp h
  exact (BitVec.pos_iff_ne_zero _).mp hpos

theorem Inv.readTimedOut {s : State} (h : Inv s) (hs : s.state = .readPoll) (hd : deadlinePassed s = true) :
    Inv s.readTimedOut :=
  .of rfl h.sequenceOk h.capacity.1 ⟨rfl, h.opRead (.inl hs), toMs_ne_zero_of_deadlinePassed hd⟩

/-! ### The sequencer -/

theorem classicList_wf (d : U32) : ∀ c ∈ classicList d, c.wf = true := by
  intro c hc
  simp only [classicList, List.mem_append] at hc
  rcases hc with (hc | hc) | hc
  · revert c; decide
  · split at hc
    · cases hc
    · rw [List.mem_singleton.mp hc]; simpa [Command.wf]
  · revert c; decide

theorem usbJtagSerialList_wf : ∀ c ∈ usbJtagSerialList, c.wf = true := by decide

theorem hardList_wf (g : Bool) : ∀ c ∈ hardList g, c.wf = true := by
  cases g <;> decide

/-- A sequence starts in IDLE, with the opcode and the error mode of its operation. -/
theorem Inv.start {s : State} (h : Inv s) (hs : s.state = .idle) {opcode : Byte} {cs : List Command} {mode : ErrMode}
    (hwf : ∀ c ∈ cs, c.wf = true) (hmode : SequenceMode opcode mode) : Inv ((s.accept opcode).start cs mode) :=
  .of rfl ⟨rfl, Nat.zero_le _, hwf⟩ h.capacity.2 ⟨h.accEmpty (by simp [hs]), hmode⟩

/-- After a command of SEQ, IDX is within the sequence (10_state.md R30). -/
theorem SequenceOk.advance {seq : List Command} {n idx : Nat} (h : SequenceOk seq n idx) {c : Command}
    (hc : seq[idx]? = some c) : SequenceOk seq n (idx + 1) :=
  ⟨h.length, by rw [h.length]; exact (List.getElem?_eq_some_iff.mp hc).1, h.wf⟩

/-- A command completes, and the sequence runs on. -/
theorem Inv.advance {s : State} (h : Inv s) (hs : s.sequencing) {c : Command} (hc : s.seq[s.idx]? = some c) :
    Inv { s.advance with state := .seqRun } :=
  .of rfl (h.sequenceOk.advance hc) h.capacity.2
    ⟨h.accEmpty (by rcases hs with hs | hs | hs <;> simp [hs]), h.sequenceMode hs⟩

/-- SetDTR and SetRTS complete in their own step, in SEQ_RUN. -/
theorem Inv.advance_seqRun {s : State} (h : Inv s) (hs : s.state = .seqRun) {c : Command}
    (hc : s.seq[s.idx]? = some c) : Inv s.advance :=
  .of hs (h.sequenceOk.advance hc) h.capacity.2 ⟨h.accEmpty (by simp [hs]), h.sequenceMode (.inl hs)⟩

/-! ### Every transition keeps the invariant -/

theorem Inv.transition {m : Move} {s t : State} (h : Inv s) (htr : Transition m s t) : Inv t := by
  cases htr with
  -- a response to a request
  | encodeFrame hs | decodeFrame hs | customInvalid hs | validate hs =>
    exact (h.accept hs _).respond (by simp [h.accEmpty, hs]) _
  | setFraming hs => exact ((h.accept hs _).setFramingEn _).respond (by simp [h.accEmpty, hs]) _
  | unwritable hs => exact ((h.accept hs _).record _).unwritable (by simp [h.accEmpty, hs])
  | notifyConnect hs => exact (h.accept hs _).deliver (by simp [h.accEmpty, hs]) (within_zero _) _
  | rawDrain hs => exact (h.acceptReadRaw hs _).deliver (by simp [h.accEmpty, hs]) (within_zero _) _
  | readFast hs _ _ hdec =>
    exact (h.acceptRead hs _ _).deliver (by simp [h.accEmpty, hs])
      (within_mono h.capacity.2 (slipDecode_length_le hdec)) _
  -- a response at the end of an operation
  | rawDeadline hs | sequenceEnd hs => exact h.respond (by simp [h.accEmpty, hs]) _
  | rawUnreadable hs | flushed hs | written hs | writeFailed hs | commitFailed hs =>
    exact (h.record _).respond (by simp [h.accEmpty, hs]) _
  | rawChunk hs => exact (h.record _).pollChunk.respond (by simp [h.accEmpty, hs]) _
  | readUnreadable => exact (h.record _).emptyAcc.respond rfl _
  | readUnframed => exact (h.record _).pollChunk.emptyAcc.respond rfl _
  | readNoFrame => exact (h.record _).pollChunk.emptyBuffers.respond rfl _
  | readFrame _ _ _ _ hcap _ _ hdec =>
    exact (h.record _).pollChunk.emptyAcc.deliver rfl
      (within_mono hcap (by simpa using slipDecode_length_le hdec)) _
  -- the reader and the writer start to wait, or wait on
  | readLoop => exact .of rfl h.sequenceOk (within_zero _) ⟨rfl, rfl, h.capacity.2⟩
  | rawLoop hs _ hleft => exact .of rfl h.sequenceOk h.capacity.2 ⟨h.accEmpty (by simp [hs]), hleft, rfl⟩
  | write hs => exact .of rfl h.sequenceOk h.capacity.2 ⟨h.accEmpty (by simp [hs]), rfl⟩
  | readDeadline hs hd => exact h.readTimedOut hs hd
  | readChunk hs _ _ _ hcap =>
    exact .of hs h.sequenceOk h.capacity.2
      ⟨h.pollingLeftover (.inl hs), h.opRead (.inl hs), by simpa using hcap⟩
  -- the sequencer
  | classicReset hs => exact h.start hs (classicList_wf _) (by simp [SequenceMode])
  | usbJtagSerialReset hs => exact h.start hs usbJtagSerialList_wf (by simp [SequenceMode])
  | hardReset hs => exact h.start hs (hardList_wf _) (by simp [SequenceMode])
  | customReset hs _ _ hparse => exact h.start hs (wf_of_parse hparse) (by simp [SequenceMode])
  | setDTR hs _ hc | setRTS hs _ hc => exact { h.advance_seqRun hs hc with }
  | commit hs _ hc | waitStart hs _ hc =>
    exact .of rfl h.sequenceOk h.capacity.2 ⟨h.accEmpty (by simp [hs]), h.sequenceMode (.inl hs), hc⟩
  | waitEnd hs => exact h.advance (.inr (.inl hs)) (h.waiting hs)
  | committed hs => exact (h.record _).advance (.inr (.inr hs)) (h.committing hs)
  -- no register of the invariant is written
  | noStep | waitMore | tickIdle | codecEnd => exact h
  | reserved | tickRead | tickWait | answers | present | codecToken => exact { h with }
  | readNone | rawNone => exact (h.record _).pollChunk
  | late => exact h.lateAck _ _
  | reset => exact .blockReset s

/-! ### No step runs off the sequence -/

theorem orOverflow_ne_noCommand {fits : Bool} {r : Result} (h : r ≠ .fault .noCommand) :
    orOverflow fits r ≠ .fault .noCommand := by
  cases fits
  · simp [orOverflow]
  · exact h

/-- No instruction faults for want of a command. -/
theorem exec_ne_noCommand (i : Instr) (s : State) : exec i s ≠ .fault .noCommand := by
  cases i with
  | encodeFrame | decodeFrame | validateCustomResetSequence => exact orOverflow_ne_noCommand nofun
  | writeFrame | customReset => exact orOverflow_ne_noCommand (by split <;> nofun)
  | read =>
    rw [exec, execRead_eq]
    split
    · split <;> nofun
    · nofun
  | readRaw => rw [exec, execReadRaw_eq]; split <;> nofun
  | classicReset | usbJtagSerialReset | hardReset | setFraming | notifyConnect | reserved | setDTR | setRTS | commit
  | wait | slipEnd | escEnd | escEsc | escLone | literal => nofun

theorem readPollStep_ne_noCommand (s : State) : readPollStep s ≠ .fault .noCommand := by
  unfold readPollStep
  split
  · nofun
  split
  · nofun
  split
  · nofun
  · rw [readAppend_eq]
    exact orOverflow_ne_noCommand (by split <;> nofun)

theorem rawPollStep_ne_noCommand (s : State) : rawPollStep s ≠ .fault .noCommand := by
  unfold rawPollStep
  split
  · nofun
  split
  · nofun
  split <;> nofun

theorem seqWaitStep_ne_noCommand (s : State) : seqWaitStep s ≠ .fault .noCommand := by
  unfold seqWaitStep
  split <;> nofun

theorem ackStep_ne_noCommand (k : Nat) (r : Ack) (s : State) : ackStep k r s ≠ .fault .noCommand := by
  unfold ackStep
  split
  · split
    · nofun
    · cases r <;> nofun
    · cases r <;> nofun
    all_goals nofun
  · nofun

/-- SEQ_RUN faults only where IDX is not N and SEQ has no command at IDX. -/
theorem fetchCommand_noCommand {s : State} (h : fetchCommand s = .answer (.fault .noCommand)) :
    s.idx ≠ s.n ∧ s.seq[s.idx]? = none := by
  unfold fetchCommand at h
  split at h
  · cases h
  split at h
  · cases h
  · exact ⟨‹_›, ‹_›⟩

/-- A move is answered with the fault at once only by SEQ_RUN's fetch. -/
theorem fetchMove_noCommand {m : Move} {s : State} (h : fetchMove m s = .answer (.fault .noCommand)) :
    s.idx ≠ s.n ∧ s.seq[s.idx]? = none := by
  cases m with
  | core =>
    simp only [fetchMove, fetchCore] at h
    cases hs : s.state <;> simp only [hs] at h
    case seqRun => exact fetchCommand_noCommand h
    case readPoll => exact absurd (Fetched.answer.inj h) (readPollStep_ne_noCommand s)
    case rawPoll => exact absurd (Fetched.answer.inj h) (rawPollStep_ne_noCommand s)
    case seqWait => exact absurd (Fetched.answer.inj h) (seqWaitStep_ne_noCommand s)
    all_goals cases h
  | request r =>
    simp only [fetchMove, fetchRequest] at h
    split at h
    · split at h <;> cases h
    · cases h
  | ack => exact absurd (Fetched.answer.inj h) (ackStep_ne_noCommand _ _ s)
  | codec =>
    simp only [fetchMove, fetchSlip] at h
    split at h <;> cases h
  | tick | channel | blockReset | present => cases h

/-- Where SEQ and N agree and IDX is at most N, SEQ has a command at every IDX other than N. -/
theorem Inv.moveResult_ne_noCommand {s : State} (h : Inv s) (m : Move) : moveResult m s ≠ .fault .noCommand := by
  intro hm
  unfold moveResult at hm
  split at hm
  · exact exec_ne_noCommand _ _ hm
  · subst hm
    obtain ⟨hidx, hnone⟩ := fetchMove_noCommand ‹_›
    have hend : s.seq.length ≤ s.idx := List.getElem?_eq_none_iff.mp hnone
    have hlength := h.seqLength
    have hbound := h.idxBound
    omega

/-- Taking a move writes no register of the invariant. -/
theorem Inv.takeMove {s : State} (h : Inv s) : Inv (takeMove s).2 := by
  obtain ⟨ms, d, hs⟩ := takeMove_frame s
  rw [hs]
  exact { h with }

/-- Settles O59: the move is taken in a state that meets the invariant, and every transition of a move keeps it. -/
theorem everyStepKeepsTheInvariant : Obligations.EveryStepKeepsTheInvariant := by
  intro s h
  exact ⟨h.takeMove.moveResult_ne_noCommand _, fun t hstep => h.takeMove.transition (step_cases hstep)⟩

end Sys2Proof.Machine
end

section
/-! PROOF. The tokens of the custom-reset language (spec/30_encoding.md R67-R75): what each argument's decoder and each
kind of token accepts, as one equivalence. The settings of S_ARG_STRICT differ only in `S` tokens. -/

namespace Sys2Proof

/-! ### What a decoder accepts -/

/-- A decode result under a map is a value of the result before it. -/
theorem except_map_eq_ok_iff {ε α β : Type} {f : α → β} {x : Except ε α} {b : β} :
    x.map f = .ok b ↔ ∃ a, x = .ok a ∧ f a = b := by
  cases x <;> simp [Except.map]

/-- The argument of a bit is its digit, and nothing else (30_encoding.md R70). -/
theorem decodeBit_eq_ok_iff {arg : Bytes} {v : Bool} : decodeBit arg = .ok v ↔ arg = [printBit v] := by
  constructor
  · intro h
    unfold decodeBit at h
    split at h
    · split_ifs at h <;> cases h <;> subst_vars <;> rfl
    · cases h
  · rintro rfl
    cases v <;> rfl

theorem isDigit_iff {d : Byte} : isDigit d = true ↔ 0x30 ≤ d ∧ d ≤ 0x39 := by
  simp [isDigit]

/-- A duration is one or more digits whose value is in the range of R73. -/
theorem decodeDuration_eq_ok_iff {ds : Bytes} {n : U32} :
    decodeDuration ds = .ok n ↔
      ds ≠ [] ∧ (∀ d ∈ ds, isDigit d = true) ∧ 1 ≤ decimalValue ds ∧ decimalValue ds ≤ 2 ^ 32 - 1 ∧
        n.toNat = decimalValue ds := by
  have hguard : (ds.isEmpty || !ds.all isDigit) = true ↔ ¬ (ds ≠ [] ∧ ∀ d ∈ ds, isDigit d = true) := by
    simp only [Bool.or_eq_true, List.isEmpty_iff, Bool.not_eq_true', ← Bool.not_eq_true, List.all_eq_true]
    tauto
  unfold decodeDuration
  split_ifs with hbad hrange
  · exact iff_of_false nofun fun ⟨hne, hall, _⟩ => hguard.mp hbad ⟨hne, hall⟩
  · -- digits in range: the value fits 32 bits
    obtain ⟨hne, hall⟩ := not_not.mp (mt hguard.mpr hbad)
    have hvalue : BitVec.ofNat 32 (decimalValue ds) = n ↔ n.toNat = decimalValue ds := by
      rw [← BitVec.toNat_inj, BitVec.toNat_ofNat, Nat.mod_eq_of_lt (by omega), eq_comm]
    rw [Except.ok.injEq, hvalue]
    exact ⟨fun hn => ⟨hne, hall, hrange.1, hrange.2, hn⟩, fun ⟨_, _, _, _, hn⟩ => hn⟩
  · exact iff_of_false nofun fun ⟨_, _, hmin, hmax, _⟩ => hrange ⟨hmin, hmax⟩

/-! ### What each kind of token denotes -/

theorem decodeToken_D_eq_ok_iff {strict : Bool} {arg : Bytes} {c : Command} :
    decodeToken strict (0x44 :: arg) = .ok c ↔ ∃ v, arg = [printBit v] ∧ .setDTR v = c := by
  simp [decodeToken, except_map_eq_ok_iff, decodeBit_eq_ok_iff]

theorem decodeToken_R_eq_ok_iff {strict : Bool} {arg : Bytes} {c : Command} :
    decodeToken strict (0x52 :: arg) = .ok c ↔ ∃ v, arg = [printBit v] ∧ .setRTS v = c := by
  simp [decodeToken, except_map_eq_ok_iff, decodeBit_eq_ok_iff]

theorem decodeToken_W_eq_ok_iff {strict : Bool} {ds : Bytes} {c : Command} :
    decodeToken strict (0x57 :: ds) = .ok c ↔ ∃ n, decodeDuration ds = .ok n ∧ .wait n = c := by
  simp [decodeToken, except_map_eq_ok_iff]

theorem decodeToken_S (strict : Bool) (tail : Bytes) :
    decodeToken strict (0x53 :: tail) = if strict && !tail.isEmpty then .error .strictTail else .ok .commit := rfl

/-- Settles O8: the strict setting rejects a tail, and nothing else is rejected. -/
theorem commitTokenTail : Obligations.CommitTokenTail := by
  intro strict tail c
  have hguard : (strict && !tail.isEmpty) = true ↔ ¬ (strict = true → tail = []) := by simp
  rw [decodeToken_S]
  split_ifs with hreject
  · exact iff_of_false nofun fun ⟨_, htail⟩ => hguard.mp hreject htail
  · rw [Except.ok.injEq, eq_comm]
    exact (and_iff_left (not_not.mp (mt hguard.mpr hreject))).symm

/-- A first byte that is none of D, R, W, S is no command code (30_encoding.md R75). -/
theorem decodeToken_unknown {strict : Bool} {b : Byte} {arg : Bytes} (hD : b ≠ 0x44) (hR : b ≠ 0x52) (hW : b ≠ 0x57)
    (hS : b ≠ 0x53) : decodeToken strict (b :: arg) = .error (.unknownCommand b) := by
  rw [decodeToken, if_neg hD, if_neg hR, if_neg hW, if_neg hS]

/-- Settles O5: the one digit of either bit is `0` or `1`. -/
theorem bitTokenIsExactlyOneDigit : Obligations.BitTokenIsExactlyOneDigit := by
  intro strict arg c
  rw [decodeToken_D_eq_ok_iff, decodeToken_R_eq_ok_iff]
  simp [Bool.exists_bool, printBit, eq_comm]

/-- Settles O6: a `W` token is accepted as its duration is. -/
theorem waitTokenIsDigitsInRange : Obligations.WaitTokenIsDigitsInRange := by
  intro strict ds c
  simp only [decodeToken_W_eq_ok_iff, decodeDuration_eq_ok_iff, isDigit_iff, Nat.one_le_iff_ne_zero, ne_eq,
    List.length_eq_zero_iff]
  constructor
  · rintro ⟨n, ⟨hne, hdigits, hmin, hmax, hn⟩, rfl⟩
    exact ⟨hne, hdigits, hmin, hmax, n, rfl, hn⟩
  · rintro ⟨hne, hdigits, hmin, hmax, n, rfl, hn⟩
    exact ⟨n, ⟨hne, hdigits, hmin, hmax, hn⟩, rfl⟩

/-! ### The decimal value -/

/-- The digit at index `j` of a string of length `m` counts `10 ^ (m - 1 - j)` times (30_encoding.md R72). -/
theorem decimalValue_eq_sum (d : Bytes) : decimalValue d =
    ∑ j ∈ Finset.range d.length, ((d.getD j 0).toNat - 0x30) * 10 ^ (d.length - 1 - j) := by
  induction d with
  | nil => rfl
  | cons b bs ih =>
    -- the first digit's term stands apart; each other index of the sum is one more than in `bs`
    rw [decimalValue, ih, List.length_cons, Finset.sum_range_succ', add_comm]
    congr 1
    exact Finset.sum_congr rfl fun j _ => by
      rw [List.getD_cons_succ, Nat.add_sub_cancel, Nat.sub_sub, Nat.add_comm 1 j]

/-- Settles O7: the sum by induction on the digits, and the rule's examples by evaluation. -/
theorem decimalValueIsThePositionalSum : Obligations.DecimalValueIsThePositionalSum :=
  ⟨decimalValue_eq_sum, by decide +kernel⟩

end Sys2Proof
end

section
/-! PROOF. A string of the custom-reset language (spec/30_encoding.md R69, R75; spec/43_reset_sequencer.md R145): its
tokens lie between its bars, and it parses as they decode. -/

namespace Sys2Proof

/-! ### The tokens of a string -/

theorem length_splitBars (s : Bytes) : (splitBars s).length = s.count 0x7C#8 + 1 := by
  induction s with
  | nil => rfl
  | cons b bs ih =>
    by_cases hb : b = 0x7C#8
    · subst hb
      rw [splitBars_cons_bar, List.length_cons, ih, List.count_cons_self]
    · obtain ⟨t, ts, hbs, hs⟩ := splitBars_cons b bs hb
      rw [hbs] at ih
      rw [hs, List.count_cons_of_ne hb, ← ih]
      rfl

theorem bar_not_mem_of_mem_splitBars (s : Bytes) : ∀ t ∈ splitBars s, 0x7C#8 ∉ t := by
  induction s with
  | nil => simp [splitBars]
  | cons b bs ih =>
    by_cases hb : b = 0x7C#8
    · subst hb
      simpa [splitBars_cons_bar] using ih
    · obtain ⟨t, ts, hbs, hs⟩ := splitBars_cons b bs hb
      rw [hbs] at ih
      simpa [hs, Ne.symm hb] using ih

theorem intercalate_splitBars (s : Bytes) : List.intercalate [0x7C#8] (splitBars s) = s := by
  induction s with
  | nil => rfl
  | cons b bs ih =>
    by_cases hb : b = 0x7C#8
    · subst hb
      rw [splitBars_cons_bar, List.intercalate_cons_of_ne_nil (splitBars_ne_nil bs), ih]
      rfl
    · obtain ⟨t, ts, hbs, hs⟩ := splitBars_cons b bs hb
      rw [hs, List.intercalate_cons_cons_left, ← hbs, ih]

/-- Settles O4: each part by induction on the string, and the rule's examples by evaluation. -/
theorem stringIsCutAtEveryBar : Obligations.StringIsCutAtEveryBar :=
  ⟨fun s => ⟨length_splitBars s, bar_not_mem_of_mem_splitBars s, intercalate_splitBars s⟩, fun _ => rfl,
    by decide +kernel⟩

/-! ### The commands of a string -/

/-- Tokens parse one by one, in order. -/
theorem parseTokens_eq_some_iff {strict : Bool} {ts : List Bytes} {cs : List Command} :
    parseTokens strict ts = some cs ↔ List.Forall₂ (fun t c => decodeToken strict t = .ok c) ts cs := by
  induction ts generalizing cs with
  | nil => simp [parseTokens, eq_comm]
  | cons t ts ih =>
    rw [List.forall₂_cons_left_iff]
    simp only [← ih, parseTokens]
    cases decodeToken strict t <;> cases parseTokens strict ts <;> simp [eq_comm]

/-- Tokens have commands exactly when each of them has one. -/
theorem exists_parseTokens_iff {strict : Bool} {ts : List Bytes} :
    (∃ cs, parseTokens strict ts = some cs) ↔ ∀ t ∈ ts, ∃ c, decodeToken strict t = .ok c := by
  simp only [parseTokens_eq_some_iff]
  induction ts with
  | nil => simp
  | cons t ts ih =>
    rw [List.forall_mem_cons, ← ih]
    simp only [List.forall₂_cons_left_iff]
    constructor
    · rintro ⟨_, c, cs, hc, hcs, rfl⟩
      exact ⟨⟨c, hc⟩, cs, hcs⟩
    · rintro ⟨⟨c, hc⟩, cs, hcs⟩
      exact ⟨_, c, cs, hc, hcs, rfl⟩

/-- Settles O9: a string parses as its tokens do, and it is valid when it parses. -/
theorem oneInvalidTokenInvalidatesTheString : Obligations.OneInvalidTokenInvalidatesTheString := by
  intro strict
  refine ⟨fun s cs => parseTokens_eq_some_iff, fun s => ?_, fun b arg hD hR hW hS c => ?_⟩
  · rw [valid, Option.isSome_iff_exists]
    exact exists_parseTokens_iff
  · rw [decodeToken_unknown hD hR hW hS]
    nofun

end Sys2Proof
end

section
/-! PROOF. Decoding and running: written-out codes and program lines, reserved opcodes, and the instruction that a step
runs (spec/30_encoding.md sections 2 to 6, spec/43_reset_sequencer.md R134). -/

namespace Sys2Proof.Machine

/-- Settles O1: nine fixed codes, by evaluation. -/
theorem writtenCodesDecode : Obligations.WrittenCodesDecode := by
  unfold Obligations.WrittenCodesDecode
  decide

/-- Settles O10: seven fixed lines, by evaluation. -/
theorem assemblerResolvesDefaults : Obligations.AssemblerResolvesDefaults := by
  unfold Obligations.AssemblerResolvesDefaults
  decide +kernel

theorem reservedOpcode_iff {opcode : Byte} : reservedOpcode opcode = true ↔ opcode = 0x00 ∨ 0x0D ≤ opcode.toNat := by
  simp [reservedOpcode, BitVec.le_def]

/-- Settles O51: a reserved opcode decodes to RESERVED whatever its operands, and the step makes that transition. -/
theorem reservedOpcodeOnlySetsTheMark : Obligations.ReservedOpcodeOnlySetsTheMark := by
  refine ⟨fun _ _ => rfl, fun opcode operands s ms hopcode hidle hmoves => ?_⟩
  rw [step_cons hmoves]
  exact moveResult_of (.reserved hidle (decodeRequest_reserved opcode operands (reservedOpcode_iff.mpr hopcode)))

/-- A token's instruction is that of its command. -/
theorem decode_token_of_decodeToken {strict : Bool} {t : Bytes} {c : Command} (h : decodeToken strict t = .ok c) :
    decode strict (.token t) = .ok c.toInstr := by
  rw [decode, h]
  rfl

/-- A codec move runs the next token, whose bytes are consumed. -/
theorem moveResult_codec {s : State} {i : Instr} {rest : Bytes} (h : slipToken s.codec.input = some (i, rest)) :
    moveResult .codec s = exec i { s with codec := { s.codec with input := rest } } := by
  simp only [moveResult, fetchMove, fetchSlip, h]

/-- Settles O52: the step takes its move, and each kind of move runs what it decodes to. -/
theorem stepRunsTheDecodedInstruction : Obligations.StepRunsTheDecodedInstruction := by
  intro s ms i
  refine ⟨fun r hidle hmoves hdecode => ?_, fun r hbusy hmoves => ?_,
    fun t c hrun hmoves hidx hc htoken hdecode => ?_, fun rest hmoves hslip => ?_⟩ <;> rw [step_cons hmoves]
  · exact moveResult_request hidle hdecode
  · exact moveResult_requestOutsideIdle hbusy
  · rw [decode_token_of_decodeToken htoken] at hdecode
    rw [← Except.ok.inj hdecode]
    exact moveResult_command hrun hidx hc
  · exact moveResult_codec hslip

end Sys2Proof.Machine
end

section
/-! PROOF. The SLIP codec's functions (spec/40_slip_codec.md R85-R89, R98): what escaping adds, which frame a decode takes
from the indices of the markers, and when unescaping shortens a body. -/

namespace Sys2Proof.Machine

/-! ### Escaping -/

/-- A byte that is neither marker nor escape stands for itself (40_slip_codec.md R85). -/
theorem esc_of_ne {x : Byte} (hend : x ≠ 0xC0#8) (hesc : x ≠ 0xDB#8) : esc x = [x] := by
  simp [esc, byteEnd, byteEsc, hend, hesc]

/-- A marker or an escape byte becomes two bytes, and any other byte stays one. -/
theorem length_esc (x : Byte) : (esc x).length = 1 + if x == 0xC0 || x == 0xDB then 1 else 0 := by
  by_cases hend : x = 0xC0#8
  · subst hend; rfl
  by_cases hesc : x = 0xDB#8
  · subst hesc; rfl
  simp [esc_of_ne hend hesc, hend, hesc]

theorem escapeAll_eq_flatMap (p : Bytes) : escapeAll p = p.flatMap esc := by
  induction p with
  | nil => rfl
  | cons x xs ih => rw [escapeAll, ih, List.flatMap_cons]

theorem length_escapeAll (p : Bytes) :
    (escapeAll p).length = p.length + p.countP (fun x => x == 0xC0 || x == 0xDB) := by
  induction p with
  | nil => rfl
  | cons x xs ih =>
    rw [escapeAll, List.length_append, length_esc, ih, List.length_cons, List.countP_cons]
    omega

/-- Settles O11: escaping is byte by byte, and the three kinds of byte are evaluated. -/
theorem encodeEscapesEachByte : Obligations.EncodeEscapesEachByte :=
  ⟨rfl, rfl, fun _ => esc_of_ne, fun p => by rw [← escapeAll_eq_flatMap]; rfl⟩

/-- Settles O12: the two markers and the escaped payload. -/
theorem encodeLengthLaw : Obligations.EncodeLengthLaw := by
  intro p
  rw [slipEncode_eq, List.length_cons, List.length_append, length_escapeAll, List.length_singleton]
  omega

/-! ### Decoding, by the indices of the markers -/

/-- A list is cut at any of its indices. -/
theorem eq_take_append_cons_drop {b : Bytes} {i : Nat} {x : Byte} (h : b[i]? = some x) :
    b = b.take i ++ x :: b.drop (i + 1) := by
  obtain ⟨hi, rfl⟩ := List.getElem?_eq_some_iff.mp h
  rw [← List.drop_eq_getElem_cons hi, List.take_append_drop]

theorem not_mem_take {b : Bytes} {i : Nat} {x : Byte} (h : ∀ j, j < i → b[j]? ≠ some x) : x ∉ b.take i := by
  rw [List.mem_take_iff_getElem]
  rintro ⟨j, hj, hx⟩
  exact h j (by omega) (List.getElem?_eq_some_iff.mpr ⟨by omega, hx⟩)

theorem not_mem_drop {b : Bytes} {i : Nat} {x : Byte} (h : ∀ j, i < j → b[j]? ≠ some x) : x ∉ b.drop (i + 1) := by
  rw [List.mem_drop_iff_getElem]
  rintro ⟨j, hj, hx⟩
  exact h (i + 1 + j) (by omega) (List.getElem?_eq_some_iff.mpr ⟨by omega, hx⟩)

/-- Settles O13: the buffer is cut at its first marker, and what follows it is cut at the next. -/
theorem decodeTakesTheFirstCompleteFrame : Obligations.DecodeTakesTheFirstCompleteFrame := by
  refine fun b => ⟨fun hnone => slipDecode_of_no_marker b ?_, fun s hs hbefore => ?_⟩
  · rw [List.mem_iff_getElem?]
    exact fun ⟨i, hi⟩ => hnone i hi
  have hstart : b = b.take s ++ 0xC0 :: b.drop (s + 1) := eq_take_append_cons_drop hs
  have hg : 0xC0 ∉ b.take s := not_mem_take hbefore
  refine ⟨fun hafter => ?_, fun e hse he hbetween => ?_⟩
  · rw [hstart]
    exact slipDecode_of_open_frame _ _ hg (not_mem_drop hafter)
  · -- the end marker of `b` is at index `e - (s + 1)` of the bytes after the start marker
    have hindex : s + 1 + (e - (s + 1)) = e := by omega
    have hend : b.drop (s + 1) = (b.drop (s + 1)).take (e - (s + 1)) ++ 0xC0 :: b.drop (e + 1) := by
      have hcut := eq_take_append_cons_drop (b := b.drop (s + 1)) (i := e - (s + 1)) (x := 0xC0)
        (by rw [List.getElem?_drop, hindex, he])
      rwa [List.drop_drop, ← Nat.add_assoc, hindex] at hcut
    have hbody : 0xC0 ∉ (b.drop (s + 1)).take (e - (s + 1)) := not_mem_take fun j hj => by
      rw [List.getElem?_drop]
      exact hbetween _ (by omega) (by omega)
    calc slipDecode b
        = slipDecode (b.take s ++ 0xC0 :: ((b.drop (s + 1)).take (e - (s + 1)) ++ 0xC0 :: b.drop (e + 1))) := by
          rw [← hend, ← hstart]
      _ = _ := slipDecode_of_frame _ _ _ hg hbody

/-- A decode finds no frame exactly in a buffer with at most one marker (40_slip_codec.md R98). -/
theorem slipDecode_fst_eq_none_iff (b : Bytes) : (slipDecode b).1 = none ↔ b.count 0xC0 ≤ 1 := by
  rcases slipDecode_cases b with ⟨h, hb⟩ | ⟨h, g, r, rfl, hg, hr⟩ | ⟨g, body, r, rfl, hg, hbody, h⟩ <;> rw [h]
  · simp [List.count_eq_zero_of_not_mem hb]
  · simp [List.count_eq_zero_of_not_mem hg, List.count_eq_zero_of_not_mem hr]
  · simp [List.count_eq_zero_of_not_mem hg, List.count_eq_zero_of_not_mem hbody]

/-- Settles O19: by the cases of a decode. -/
theorem noFrameReturnsTheBufferUnchanged : Obligations.NoFrameReturnsTheBufferUnchanged := by
  refine ⟨fun b r h => ?_, slipDecode_fst_eq_none_iff⟩
  have hb : slipDecode b = (none, b) := slipDecode_none (by rw [h])
  obtain rfl : b = r := by rw [hb] at h; exact congrArg Prod.snd h
  exact ⟨rfl, hb⟩

/-! ### Unescaping -/

/-- The byte `b` and the first byte of `rest` are an escape pair (40_slip_codec.md R89). -/
def OpensPair (b : Byte) (rest : Bytes) : Prop :=
  b = 0xDB ∧ (rest.head? = some 0xDC ∨ rest.head? = some 0xDD)

/-- A body with an escape byte and, right after it, one of the bytes that complete a pair. -/
def HasEscapePair (body : Bytes) : Prop :=
  ∃ i : Nat, body[i]? = some (0xDB : Byte) ∧ (body[i + 1]? = some (0xDC : Byte) ∨ body[i + 1]? = some (0xDD : Byte))

theorem not_hasEscapePair_nil : ¬ HasEscapePair [] := by simp [HasEscapePair]

/-- A pair is the first two bytes, or lies in what follows the first. -/
theorem hasEscapePair_cons (b : Byte) (rest : Bytes) :
    HasEscapePair (b :: rest) ↔ OpensPair b rest ∨ HasEscapePair rest := by
  rw [HasEscapePair, ← Nat.or_exists_add_one]
  simp [HasEscapePair, OpensPair, List.head?_eq_getElem?]

/-- Induction along `unescape`: a pair gives one byte, and a byte that opens none is kept (40_slip_codec.md R89). -/
theorem unescape_induction {motive : Bytes → Prop} (nil : motive [])
    (pair : ∀ b c rest x, OpensPair b (c :: rest) → unescape (b :: c :: rest) = x :: unescape rest → motive rest →
      motive (b :: c :: rest))
    (lone : ∀ b rest, ¬ OpensPair b rest → unescape (b :: rest) = b :: unescape rest → motive rest →
      motive (b :: rest)) (body : Bytes) : motive body := by
  induction body using unescape.induct with
  | case1 => exact nil
  | case2 b => exact lone b [] (by simp [OpensPair]) rfl nil
  | case3 b c rest h ih =>
    obtain ⟨rfl, rfl⟩ := h
    exact pair _ _ rest 0xC0 ⟨rfl, .inl rfl⟩ rfl ih
  | case4 b c rest _ h ih =>
    obtain ⟨rfl, rfl⟩ := h
    exact pair _ _ rest 0xDB ⟨rfl, .inr rfl⟩ rfl ih
  | case5 b c rest hend hesc ih =>
    have hlone : ¬ OpensPair b (c :: rest) := by
      rintro ⟨hb, hc | hc⟩
      · exact hend ⟨hb, Option.some.inj hc⟩
      · exact hesc ⟨hb, Option.some.inj hc⟩
    exact lone b (c :: rest) hlone (unescape_lone b _ hlone) ih

theorem length_unescape_le (body : Bytes) : (unescape body).length ≤ body.length := by
  induction body using unescape_induction with
  | nil => exact Nat.le_refl _
  | pair b c rest x _ hx ih => rw [hx]; exact Nat.le_succ_of_le (Nat.succ_le_succ ih)
  | lone b rest _ hb ih => rw [hb]; exact Nat.succ_le_succ ih

theorem length_unescape_eq_iff (body : Bytes) : (unescape body).length = body.length ↔ ¬ HasEscapePair body := by
  induction body using unescape_induction with
  | nil => exact iff_of_true rfl not_hasEscapePair_nil
  | pair b c rest x hpair hx =>
    have hle := length_unescape_le rest
    refine iff_of_false ?_ (not_not.mpr ((hasEscapePair_cons _ _).mpr (.inl hpair)))
    rw [hx, List.length_cons, List.length_cons, List.length_cons]
    omega
  | lone b rest hlone hb ih =>
    rw [hb, List.length_cons, List.length_cons, Nat.add_right_cancel_iff, ih, hasEscapePair_cons, or_iff_right hlone]

/-- Settles O14: the length laws by induction along `unescape`. -/
theorem unescapeReversesPairsAndKeepsLoneEscapes : Obligations.UnescapeReversesPairsAndKeepsLoneEscapes :=
  ⟨rfl, fun _ => rfl, fun _ => rfl, unescape_lone, length_unescape_le, length_unescape_eq_iff⟩

end Sys2Proof.Machine
end

section
/-! PROOF. The codec's operations (spec/40_slip_codec.md R91, R92): each responds in its own step with what the codec's
function gives. -/

namespace Sys2Proof.Machine

theorem bufferFits_iff (b : Bytes) (s : State) : bufferFits b s = true ↔ ∀ c, s.params.bufCap = some c → b.length ≤ c :=
  within_iff _ _

theorem exec_encodeFrame {payload : Bytes} {s : State} (h : bufferFits payload s = true) :
    exec (.encodeFrame payload) s = .next ((s.accept 0x01).respond (.ofData .bytes (slipEncode payload))) :=
  orOverflow_of h _

theorem exec_decodeFrame {buffer : Bytes} {s : State} (h : bufferFits buffer s = true) :
    exec (.decodeFrame buffer) s = .next ((s.accept 0x02).respond (decodedResponse (slipDecode buffer))) :=
  orOverflow_of h _

/-- An operation that responds in its acceptance step changes nothing else of the settled state. -/
theorem settled_accept_respond (s : State) (opcode : Byte) (r : Response) :
    ((s.accept opcode).respond r).settled =
      { s.settled with state := .idle, responses := s.responses ++ [r] } := by
  rw [respond_settled, accept_settled, accept_responses]

/-- Settles O22: the response is the only change. -/
theorem encodeFrameAnswersTheEncodedFrame : Obligations.EncodeFrameAnswersTheEncodedFrame :=
  fun _ s hcap => ⟨_, exec_encodeFrame ((bufferFits_iff _ s).mpr hcap), settled_accept_respond s _ _⟩

/-- Settles O23: the response is the only change, and without a frame its remainder is the buffer. -/
theorem decodeFrameAnswersTheDecodeResult : Obligations.DecodeFrameAnswersTheDecodeResult := by
  intro buffer s hcap
  have hexec := exec_decodeFrame ((bufferFits_iff buffer s).mpr hcap)
  refine ⟨fun x r hframe => ?_, fun r hnone => ?_⟩
  · rw [hframe] at hexec
    exact ⟨_, hexec, settled_accept_respond s _ _⟩
  · rw [slipDecode_none (by rw [hnone])] at hexec
    exact ⟨_, hexec, settled_accept_respond s _ _⟩

end Sys2Proof.Machine
end

section
/-! PROOF. Steps and runs along a schedule (log 6): a step takes the head of the schedule and a transition leaves the rest,
responses are only added, and a property that every step but block reset keeps holds along a run without one. -/

namespace Sys2Proof.Machine

/-! ### A step -/

/-- A transition of the move at the head of the schedule is the step. -/
theorem step_of_transition {s t : State} {m : Move} {ms : List Move} (hmoves : s.moves = m :: ms)
    (h : Transition m { s with moves := ms } t) : step s = .next t :=
  (step_cons hmoves).trans (moveResult_of h)

theorem lateAck_moves (k : Nat) (r : Ack) (s : State) : (lateAck k r s).moves = s.moves := by
  rcases lateAck_eq k r s with h | h <;> rw [h]
  exact record_moves s _

theorem Transition.moves_eq {m : Move} {s t : State} (h : Transition m s t) : t.moves = s.moves := by
  cases h with
  | unwritable =>
    obtain ⟨r, hr⟩ := unwritable_eq_respond (s.accept 0x05).askWritable
    rw [hr]
    rfl
  | late => exact lateAck_moves _ _ _
  | _ => rfl

/-- A step of a schedule that holds no block reset takes its first move, and the rest holds none. -/
theorem State.noResetFor.step {k : Nat} {s t : State} (h : s.noResetFor (k + 1)) (hstep : step s = .next t) :
    (takeMove s).1 ≠ .blockReset ∧ t.noResetFor k := by
  obtain ⟨hlength, hreset⟩ := h
  cases hmoves : s.moves with
  | nil => simp [hmoves] at hlength
  | cons m ms =>
    have htr := step_cases hstep
    rw [takeMove_cons hmoves] at htr ⊢
    rw [State.noResetFor, htr.moves_eq]
    rw [hmoves, List.take_succ_cons, List.mem_cons, not_or] at hreset
    rw [hmoves, List.length_cons] at hlength
    exact ⟨Ne.symm hreset.1, Nat.le_of_succ_le_succ hlength, hreset.2⟩

theorem step_responses_length_le {s t : State} (h : step s = .next t) : s.responses.length ≤ t.responses.length := by
  rcases (step_cases h).responds_or_keeps with ⟨r, hr, _⟩ | ⟨hr, _⟩ <;> rw [hr, takeMove_responses]
  rw [List.length_append]
  exact Nat.le_add_right _ _

/-! ### A run -/

theorem run_responses_length_le {k : Nat} {s t : State} (h : run k s = .next t) :
    s.responses.length ≤ t.responses.length := by
  induction k generalizing s with
  | zero => cases h; exact Nat.le_refl _
  | succ k ih =>
    obtain ⟨s', hstep, hrun⟩ := run_succ_next h
    exact (step_responses_length_le hstep).trans (ih hrun)

/-- A property that every step without a block reset keeps, as long as it delivers no response, holds after a run that has
delivered none; and the schedule left holds no block reset either. -/
theorem run_keeps_until_response {P : State → Prop}
    (hkeeps : ∀ s t, P s → step s = .next t → (takeMove s).1 ≠ .blockReset → t.responses = s.responses → P t)
    {j k : Nat} {s t : State} (hreset : s.noResetFor (k + j)) (hrun : run k s = .next t)
    (hnone : t.responses = s.responses) (hP : P s) : P t ∧ t.noResetFor j := by
  induction k generalizing s with
  | zero =>
    cases hrun
    rw [Nat.zero_add] at hreset
    exact ⟨hP, hreset⟩
  | succ k ih =>
    obtain ⟨s', hstep, hrun'⟩ := run_succ_next hrun
    rw [Nat.add_right_comm] at hreset
    obtain ⟨hm, hreset'⟩ := hreset.step hstep
    have hgrows := run_responses_length_le hrun'
    have hsame : s'.responses = s.responses := by
      rcases (step_cases hstep).responds_or_keeps with ⟨r, hr, _⟩ | ⟨hr, _⟩ <;> rw [takeMove_responses] at hr
      · rw [hnone, hr, List.length_append] at hgrows
        exact absurd hgrows (by simp)
      · exact hr
    exact ih hreset' hrun' (hnone.trans hsame.symm) (hkeeps s s' hP hstep hm hsame)

end Sys2Proof.Machine
end

section
/-! PROOF. Every byte of a READ is accounted for (spec/41_framed_reader.md R118, R120): while READ goes on, the old LEFTOVER
and the chunks polled so far are in ACC, or in LEFTOVER once the deadline has passed (`ReadHolds`); the step that responds
answers them or keeps them (`ReadEnds`). -/

namespace Sys2Proof.Machine

/-- The bytes that a READ accepted in `s0` has had by `t`: LEFTOVER at its acceptance and every chunk polled since. -/
def bytesSince (s0 t : State) : Bytes := s0.leftover ++ receivedBytes (t.history.drop s0.history.length)

/-- A READ accepted in `s0` goes on, and holds all its bytes. -/
structure ReadHolds (s0 t : State) : Prop where
  after : s0.history.length ≤ t.history.length
  holds : (t.state = .readPoll ∧ t.acc = bytesSince s0 t ∧ t.leftover = []) ∨
    (t.state = .readFlushAwait ∧ t.leftover = bytesSince s0 t)

/-- How a READ accepted in `s0` ends in `u` with the response `r`: its bytes are kept, answered, or decoded. -/
def ReadEnds (s0 u : State) (r : Response) : Prop :=
  (r = ⟨.timeout, .none, false, [], []⟩ ∧ u.leftover = bytesSince s0 u) ∨
  (r = ⟨.ok, .raw, false, bytesSince s0 u, []⟩ ∧ u.leftover = []) ∨
  ∃ f rest, slipDecode (bytesSince s0 u) = (some f, rest) ∧ r = ⟨.ok, .frame, false, f, []⟩ ∧ u.leftover = rest

theorem readEnds_timeout {s0 u : State} (hleft : u.leftover = bytesSince s0 u) : ReadEnds s0 u (.plain .timeout) :=
  .inl ⟨rfl, hleft⟩

theorem readEnds_raw {s0 u : State} {a : Bytes} (ha : bytesSince s0 u = a) (hleft : u.leftover = []) :
    ReadEnds s0 u (.ofData .raw a) := by
  subst ha
  exact .inr (.inl ⟨rfl, hleft⟩)

theorem readEnds_frame {s0 u : State} {a f : Bytes} (ha : bytesSince s0 u = a)
    (hdec : slipDecode a = (some f, u.leftover)) : ReadEnds s0 u (.ofData .frame f) := by
  subst ha
  exact .inr (.inr ⟨f, u.leftover, hdec, rfl, rfl⟩)

/-- New events add what they received. -/
theorem bytesSince_append {s0 s t : State} {es : List Event} (hafter : s0.history.length ≤ s.history.length)
    (ht : t.history = s.history ++ es) : bytesSince s0 t = bytesSince s0 s ++ receivedBytes es := by
  rw [bytesSince, bytesSince, ht, List.drop_append_of_le_length hafter, receivedBytes_append, List.append_assoc]

/-- Events that received nothing change nothing. -/
theorem bytesSince_of_nothing_received {s0 s t : State} {es : List Event}
    (hafter : s0.history.length ≤ s.history.length) (ht : t.history = s.history ++ es) (hes : receivedBytes es = []) :
    bytesSince s0 t = bytesSince s0 s := by
  rw [bytesSince_append hafter ht, hes, List.append_nil]

theorem ReadHolds.after_append {s0 s t : State} (h : ReadHolds s0 s) {es : List Event}
    (ht : t.history = s.history ++ es) : s0.history.length ≤ t.history.length := by
  rw [ht, List.length_append]
  exact Nat.le_add_right_of_le h.after

theorem ReadHolds.active {s0 s : State} (h : ReadHolds s0 s) : s.state = .readPoll ∨ s.state = .readFlushAwait :=
  h.holds.imp And.left And.left

theorem ReadHolds.polling {s0 s : State} (h : ReadHolds s0 s) (hs : s.state = .readPoll) :
    s.acc = bytesSince s0 s ∧ s.leftover = [] := by
  rcases h.holds with ⟨_, hbytes⟩ | ⟨hflush, _⟩
  · exact hbytes
  · cases hs.symm.trans hflush

theorem ReadHolds.flushing {s0 s : State} (h : ReadHolds s0 s) (hs : s.state = .readFlushAwait) :
    s.leftover = bytesSince s0 s := by
  rcases h.holds with ⟨hpoll, _⟩ | ⟨_, hbytes⟩
  · cases hs.symm.trans hpoll
  · exact hbytes

/-- READ holds its bytes on when STATE, ACC and LEFTOVER stay and nothing is received. -/
theorem ReadHolds.keep {s0 s t : State} (h : ReadHolds s0 s) {es : List Event} (hstate : t.state = s.state)
    (hacc : t.acc = s.acc) (hleft : t.leftover = s.leftover) (ht : t.history = s.history ++ es)
    (hes : receivedBytes es = []) : ReadHolds s0 t := by
  refine ⟨h.after_append ht, ?_⟩
  rw [hstate, hacc, hleft, bytesSince_of_nothing_received h.after ht hes]
  exact h.holds

theorem ReadHolds.lateAck {s0 s : State} (h : ReadHolds s0 s) (k : Nat) (r : Ack) :
    ReadHolds s0 (lateAck k r s) := by
  rcases lateAck_eq k r s with hl | hl <;> rw [hl]
  · exact h
  · exact h.keep rfl rfl rfl (record_history _ _) rfl

theorem polled_history (s : State) : s.askReadable.pollChunk.history =
    s.history ++ [.isReadable s.answers.readable, .readChunk s.answers.chunk] := by
  simp

/-- A polled chunk comes after the bytes in ACC. -/
theorem ReadHolds.bytesSince_polled {s0 s t : State} (h : ReadHolds s0 s) (hs : s.state = .readPoll) {x : Bytes}
    (hx : s.answers.chunk = some x) (ht : t.history = s.askReadable.pollChunk.history) :
    bytesSince s0 t = s.acc ++ x := by
  rw [bytesSince_append h.after (ht.trans (polled_history s)), hx, (h.polling hs).1]
  simp [Event.received]

/-- A transition of a READ that goes on: it delivers no response and READ holds its bytes, or it responds and READ ends. -/
theorem ReadHolds.transition {s0 s t : State} {m : Move} (h : ReadHolds s0 s) (htr : Transition m s t)
    (hm : m ≠ .blockReset) :
    (t.responses = s.responses ∧ ReadHolds s0 t) ∨ ∃ r, t.responses = s.responses ++ [r] ∧ ReadEnds s0 t r := by
  cases htr with
  -- READ goes on
  | readDeadline hs =>
    have hbytes := bytesSince_of_nothing_received (t := s.readTimedOut) (es := [.flush]) h.after rfl rfl
    exact .inl ⟨rfl, h.after_append (es := [.flush]) rfl, .inr ⟨rfl, (h.polling hs).1.trans hbytes.symm⟩⟩
  | readNone _ _ _ hx => exact .inl ⟨rfl, h.keep rfl rfl rfl (polled_history s) (by simp [Event.received, hx])⟩
  | readChunk hs _ _ hx =>
    exact .inl ⟨rfl, h.after_append (polled_history s), .inl ⟨hs, (h.bytesSince_polled hs hx rfl).symm, (h.polling hs).2⟩⟩
  | noStep | tickRead | tickWait | tickIdle | answers | present | codecToken | codecEnd =>
    exact .inl ⟨rfl, h.keep rfl rfl rfl (List.append_nil _).symm rfl⟩
  | late => exact .inl ⟨lateAck_responses _ _ _, h.lateAck _ _⟩
  -- READ responds
  | readUnreadable hs =>
    have hbytes := bytesSince_of_nothing_received (t := s.askReadable) (es := [.isReadable _]) h.after rfl rfl
    exact .inr ⟨_, rfl, readEnds_raw (hbytes.trans (h.polling hs).1.symm) (h.polling hs).2⟩
  | readFrame hs _ _ hx _ _ _ hdec =>
    exact .inr ⟨_, rfl, readEnds_frame (h.bytesSince_polled hs hx rfl) hdec⟩
  | readNoFrame hs _ _ hx =>
    exact .inr ⟨_, rfl, readEnds_raw (h.bytesSince_polled hs hx rfl) rfl⟩
  | readUnframed hs _ _ hx =>
    exact .inr ⟨_, rfl, readEnds_raw (h.bytesSince_polled hs hx rfl) (h.polling hs).2⟩
  | @flushed _ r hs =>
    have hbytes := bytesSince_of_nothing_received (t := s.record (.ack s.issued r)) (es := [.ack s.issued r]) h.after rfl rfl
    exact .inr ⟨_, rfl, readEnds_timeout ((h.flushing hs).trans hbytes.symm)⟩
  | reset => exact absurd rfl hm
  -- no transition of another operation, and none of IDLE
  | encodeFrame hs | decodeFrame hs | readFast hs | readLoop hs | rawDrain hs | rawLoop hs | write hs | unwritable hs
  | classicReset hs | usbJtagSerialReset hs | hardReset hs | customReset hs | customInvalid hs | validate hs
  | setFraming hs | notifyConnect hs | reserved hs | rawDeadline hs | rawUnreadable hs | rawChunk hs | rawNone hs
  | sequenceEnd hs | setDTR hs | setRTS hs | commit hs | waitStart hs | waitEnd hs | waitMore hs | written hs
  | writeFailed hs | committed hs | commitFailed hs => exact absurd h.active (by simp [hs])

/-- Taking a move changes nothing of what READ holds. -/
theorem ReadHolds.step {s0 s t : State} (h : ReadHolds s0 s) (hstep : step s = .next t)
    (hm : (takeMove s).1 ≠ .blockReset) :
    (t.responses = s.responses ∧ ReadHolds s0 t) ∨ ∃ r, t.responses = s.responses ++ [r] ∧ ReadEnds s0 t r := by
  have htr := step_cases hstep
  obtain ⟨ms, d, htake⟩ := takeMove_frame s
  rw [htake] at htr
  exact ReadHolds.transition (s := { s with moves := ms, draws := d }) ⟨h.after, h.holds⟩ htr hm

/-- The acceptance step that enters the loop has all the bytes of LEFTOVER in ACC. -/
theorem readHolds_of_exec_read {timeoutMs minBytes : U32} {s0 s : State}
    (h : exec (.read timeoutMs minBytes) s0 = .next s) (hs : s.state = .readPoll) : ReadHolds s0 s := by
  have hnone : bytesSince s0 s0 = s0.leftover := by simp [bytesSince]
  rw [exec, execRead_eq] at h
  split at h
  · split at h <;> cases h
    · cases hs
    · exact ⟨Nat.le_refl _, .inl ⟨rfl, hnone.symm, rfl⟩⟩
  · cases h
    exact ⟨Nat.le_refl _, .inl ⟨rfl, hnone.symm, rfl⟩⟩

/-- Settles O29: READ holds its bytes from its acceptance to the step that responds, and that step ends it. -/
theorem readAccountsForEveryByte : Obligations.ReadAccountsForEveryByte := by
  intro timeoutMs minBytes s0 s t u k r hexec hs hreset hrun hnone hstep hr
  have hkeeps : ∀ s t, ReadHolds s0 s → step s = .next t → (takeMove s).1 ≠ .blockReset → t.responses = s.responses →
      ReadHolds s0 t := by
    intro s t h hstep hm hsame
    rcases h.step hstep hm with ⟨_, ht⟩ | ⟨r, hr, _⟩
    · exact ht
    · simp [hsame] at hr
  obtain ⟨ht, hlast⟩ := run_keeps_until_response hkeeps hreset hrun hnone (readHolds_of_exec_read hexec hs)
  rw [← hnone] at hr
  rcases ht.step hstep (hlast.step hstep).1 with ⟨hsame, _⟩ | ⟨r', hr', hends⟩
  · simp [hsame] at hr
  · obtain rfl : r' = r := by simpa using hr'.symm.trans hr
    exact hends

end Sys2Proof.Machine
end

section
/-! PROOF. READ step by step (spec/41_framed_reader.md R101-R108): its acceptance, its poll below the threshold, the poll
that reaches it, its deadline and the acknowledgement of its flush. -/

namespace Sys2Proof.Machine

/-! ### Acceptance -/

/-- READ's fast path. -/
theorem exec_read_of_frame {timeoutMs minBytes : U32} {s : State} {x r : Bytes} (hframing : s.framingEn = true)
    (hdec : slipDecode s.leftover = (some x, r)) :
    exec (.read timeoutMs minBytes) s =
      .next ({ s.accept 0x03 with toMs := timeoutMs, minBytes := minBytes }.deliverFrame x r) := by
  have hleft : s.leftover ≠ [] := by
    intro hnil
    rw [hnil, slipDecode_nil] at hdec
    cases hdec
  rw [exec, execRead_eq, if_pos (by simp [hframing, hleft]), hdec]

/-- READ's entry to its loop. -/
theorem exec_read_of_no_frame {timeoutMs minBytes : U32} {s : State}
    (h : s.framingEn = false ∨ (slipDecode s.leftover).1 = none) :
    exec (.read timeoutMs minBytes) s =
      .next { s.accept 0x03 with toMs := timeoutMs, minBytes := minBytes }.enterAccumulate := by
  rw [exec, execRead_eq]
  rcases h with hframing | hdec
  · rw [if_neg (by simp [hframing])]
  · rw [slipDecode_none hdec, ite_self]

/-- Settles O25: the fast path when `decode` finds a frame, the loop when it does not or framing is off. -/
theorem readAcceptance : Obligations.ReadAcceptance := by
  intro timeoutMs minBytes s
  exact ⟨fun x r hframing hdec => ⟨_, exec_read_of_frame hframing hdec, rfl⟩, fun h => exec_read_of_no_frame h⟩

/-! ### One poll -/

theorem deadlinePassed_eq_false {s : State} (h : ¬ (0 < s.toMs ∧ s.toMs ≤ s.tmrRd)) : deadlinePassed s = false :=
  Bool.eq_false_iff.mpr (mt (deadlinePassed_iff s).mp h)

/-- What a poll of a readable channel leaves: two queries, and the chunk consumed. -/
theorem polled_eq {s : State} {chunk : Option Bytes} (hr : s.answers.readable = true) (hx : s.answers.chunk = chunk) :
    s.askReadable.pollChunk = { s with
      answers := { s.answers with chunk := none }
      history := s.history ++ [.isReadable true, .readChunk chunk] } := by
  simp [State.pollChunk, State.record, hr, hx]

theorem askReadable_of_unreadable {s : State} (hr : s.answers.readable = false) :
    s.askReadable = s.record (.isReadable false) := by
  rw [askReadable_eq, hr]

/-- A poll that returns `None` consumes no chunk. -/
theorem answers_of_no_chunk {a : Answers} (h : a.chunk = none) : { a with chunk := none } = a := by
  rw [← h]

theorem orOverflow_of_false {fits : Bool} (h : fits = false) (r : Result) : orOverflow fits r = .fault .bufferOverflow := by
  rw [h]
  rfl

/-- An append beyond a finite BUF_CAP faults (60_exceptions.md R182). -/
theorem readPollStep_overflow {s : State} {x : Bytes} {c : Nat} (hd : deadlinePassed s = false)
    (hr : s.answers.readable = true) (hx : s.answers.chunk = some x) (hcap : s.params.bufCap = some c)
    (hlong : c < s.acc.length + x.length) : readPollStep s = .fault .bufferOverflow := by
  have hover : within s.params.bufCap (s.acc.length + x.length) = false := by simp [within, hcap, hlong]
  simp only [readPollStep, hd, hr, hx, readAppend_eq, orOverflow_of_false hover]
  rfl

/-- Settles O26: the transitions of READ's poll below the threshold, and the fault beyond the capacity. -/
theorem readPollBelowTheThreshold : Obligations.ReadPollBelowTheThreshold := by
  intro s ms hs hmoves hdeadline
  have hd : deadlinePassed { s with moves := ms } = false := deadlinePassed_eq_false hdeadline
  refine ⟨fun hr => ?_, fun hr hx => ?_, fun x hr hx => ⟨fun c hcap hlong => ?_, fun hcap hmin => ?_⟩⟩
  · refine ⟨_, step_of_transition hmoves (.readUnreadable hs hd hr), ?_⟩
    rw [askReadable_of_unreadable (s := { s with moves := ms }) hr]
    rfl
  · rw [step_of_transition hmoves (.readNone hs hd hr hx), polled_eq (s := { s with moves := ms }) hr hx,
      answers_of_no_chunk hx]
  · rw [step_cons hmoves, moveResult_readPoll (s := { s with moves := ms }) hs]
    exact readPollStep_overflow hd hr hx hcap hlong
  · rw [List.length_append] at hmin
    rw [step_of_transition hmoves (.readChunk hs hd hr hx ((within_iff _ _).mpr hcap) hmin),
      polled_eq (s := { s with moves := ms }) hr hx]

/-- Settles O27: the three transitions of READ's finish. -/
theorem readFinishesWhenMinIsReached : Obligations.ReadFinishesWhenMinIsReached := by
  intro s ms x hs hmoves hdeadline hr hx hcap hmin
  have hd : deadlinePassed { s with moves := ms } = false := deadlinePassed_eq_false hdeadline
  have hfits := (within_iff _ _).mpr hcap
  rw [List.length_append] at hmin
  refine ⟨fun f r hframing hdec => ⟨_, step_of_transition hmoves (.readFrame hs hd hr hx hfits hmin hframing hdec), ?_⟩,
    fun hframing hdec => ⟨_, step_of_transition hmoves (.readNoFrame hs hd hr hx hfits hmin hframing hdec), ?_⟩,
    fun hframing => ⟨_, step_of_transition hmoves (.readUnframed hs hd hr hx hfits hmin hframing), ?_⟩⟩ <;>
  · rw [polled_eq (s := { s with moves := ms }) hr hx]
    rfl

/-! ### The deadline and the flush -/

theorem lateAck_channelEvents (k : Nat) (r : Ack) (s : State) :
    channelEvents (lateAck k r s).history = channelEvents s.history := by
  rcases lateAck_eq k r s with h | h <;> rw [h]
  simp [Event.isChannel]

theorem lateAck_leftover (k : Nat) (r : Ack) (s : State) : (lateAck k r s).leftover = s.leftover := by
  rcases lateAck_eq k r s with h | h <;> rw [h]
  exact record_leftover s _

/-- Every move but block reset, a request and the awaited acknowledgement leaves a READ that awaits its flush as it is. -/
theorem moveResult_readFlushAwait {s : State} {m : Move} (hs : s.state = .readFlushAwait) (hreset : m ≠ .blockReset)
    (hack : ∀ r, m ≠ .ack s.issued r) (hrequest : ∀ r, m ≠ .request r) :
    ∃ t, moveResult m s = .next t ∧ t.state = .readFlushAwait ∧ t.responses = s.responses ∧ t.leftover = s.leftover ∧
      channelEvents t.history = channelEvents s.history := by
  cases m with
  | request r => exact absurd rfl (hrequest r)
  | core => exact ⟨_, moveResult_of (.noStep (.inr (.inl hs))), hs, rfl, rfl, rfl⟩
  | tick => exact ⟨_, moveResult_of (.tickIdle (by simp [hs]) (by simp [hs]) (by simp [hs])), hs, rfl, rfl, rfl⟩
  | channel a => exact ⟨_, moveResult_of .answers, hs, rfl, rfl, rfl⟩
  | ack k r =>
    have hk : k ≠ s.issued := fun hk => hack r (by rw [hk])
    exact ⟨_, moveResult_of (.late (.inr hk)), (lateAck_state k r s).trans hs, lateAck_responses k r s,
      lateAck_leftover k r s, lateAck_channelEvents k r s⟩
  | blockReset => exact absurd rfl hreset
  | present b => exact ⟨_, moveResult_of .present, hs, rfl, rfl, rfl⟩
  | codec =>
    cases htoken : slipToken s.codec.input with
    | none => exact ⟨_, moveResult_of (.codecEnd (slipToken_eq_none htoken)), hs, rfl, rfl, rfl⟩
    | some token => exact ⟨_, moveResult_of (.codecToken htoken), hs, rfl, rfl, rfl⟩

/-- Settles O28: the deadline's transition, the acknowledgement's, and what every other move leaves. -/
theorem readTimeoutKeepsBytesAndFlushes : Obligations.ReadTimeoutKeepsBytesAndFlushes := by
  refine ⟨fun s ms hs hmoves hpos hle => ?_, fun s ms r hs hmoves => ?_,
    fun s m ms hs hmoves hreset hack hrequest => ?_⟩
  · exact step_of_transition hmoves (.readDeadline hs ((deadlinePassed_iff _).mpr ⟨hpos, hle⟩))
  · exact ⟨_, step_of_transition hmoves (.flushed (s := { s with moves := ms }) hs), rfl⟩
  · rw [step_cons hmoves]
    exact moveResult_readFlushAwait hs hreset hack hrequest

end Sys2Proof.Machine
end

section
/-! PROOF. READ_RAW, WRITE_FRAME and the reader's configuration (spec/41_framed_reader.md R111-R117). -/

namespace Sys2Proof.Machine

/-- Settles O32: READ_RAW's two acceptance branches. -/
theorem readRawAcceptance : Obligations.ReadRawAcceptance := by
  intro timeoutMs s
  rw [exec, execReadRaw_eq]
  refine ⟨fun hpos => ⟨_, if_neg ?_, rfl⟩, fun hnil => if_pos ?_⟩
  · simpa using List.ne_nil_of_length_pos hpos
  · simpa using hnil

/-- Settles O33: the transitions of READ_RAW's poll. -/
theorem readRawPoll : Obligations.ReadRawPoll := by
  intro s ms hs hmoves
  refine ⟨fun hpos hle => ?_, fun hdeadline hr => ?_, fun x hdeadline hr hx hne => ?_, fun hdeadline hr hx => ?_⟩
  · exact ⟨_, step_of_transition hmoves (.rawDeadline hs ((deadlinePassed_iff _).mpr ⟨hpos, hle⟩)), rfl⟩
  · refine ⟨_, step_of_transition hmoves (.rawUnreadable hs (deadlinePassed_eq_false hdeadline) hr), ?_⟩
    rw [askReadable_of_unreadable (s := { s with moves := ms }) hr]
    rfl
  · refine ⟨_, step_of_transition hmoves (.rawChunk hs (deadlinePassed_eq_false hdeadline) hr hx hne), ?_⟩
    rw [polled_eq (s := { s with moves := ms }) hr hx]
    rfl
  · rw [step_of_transition hmoves (.rawNone hs (deadlinePassed_eq_false hdeadline) hr hx),
      polled_eq (s := { s with moves := ms }) hr rfl]

theorem exec_writeFrame_writable {payload : Bytes} {s : State} (hfits : bufferFits payload s = true)
    (hw : s.answers.writable = true) : exec (.writeFrame payload) s =
      .next ({ (s.accept 0x05).askWritable with state := .writeAwait }.issue (.write (slipEncode payload))) := by
  rw [exec, execWriteFrame_eq, orOverflow_of hfits, if_pos hw]

/-- A channel that is not writable is answered by the setting of WRITE_WHEN_UNWRITABLE. -/
theorem unwritable_eq (s : State) : s.unwritable =
    s.respond (.plain (if s.params.writeWhenUnwritable = .skipOk then .ok else .channelError)) := by
  cases h : s.params.writeWhenUnwritable <;> simp [State.unwritable, h]

theorem askWritable_of_unwritable {s : State} (hw : s.answers.writable = false) :
    s.askWritable = s.record (.isWritable false) := by
  rw [askWritable_eq, hw]

theorem exec_writeFrame_unwritable {payload : Bytes} {s : State} (hfits : bufferFits payload s = true)
    (hw : s.answers.writable = false) : exec (.writeFrame payload) s =
      .next (((s.accept 0x05).record (.isWritable false)).respond
        (.plain (if s.params.writeWhenUnwritable = .skipOk then .ok else .channelError))) := by
  rw [exec, execWriteFrame_eq, orOverflow_of hfits, if_neg (by simp [hw]),
    askWritable_of_unwritable (s := s.accept 0x05) hw, unwritable_eq]
  rfl

/-- Settles O34: a writable channel, and the two answers to one that is not. -/
theorem writeFrameIssuesOneWrite : Obligations.WriteFrameIssuesOneWrite := by
  intro payload s hcap
  have hfits := (bufferFits_iff payload s).mpr hcap
  refine ⟨fun hw => ?_, fun hw hskip => ⟨_, exec_writeFrame_unwritable hfits hw, ?_⟩,
    fun hw herror => ⟨_, exec_writeFrame_unwritable hfits hw, ?_⟩⟩
  · rw [exec_writeFrame_writable hfits hw]
    simp [State.issue, State.record, State.accept, hw]
  · rw [if_pos hskip]
    rfl
  · rw [if_neg (by simp [herror])]
    rfl

/-- Settles O35: the transition of each acknowledgement. -/
theorem writeFrameCompletesAtItsAck : Obligations.WriteFrameCompletesAtItsAck := by
  intro s ms r hs hmoves
  cases r with
  | ok => exact ⟨_, step_of_transition hmoves (.written (s := { s with moves := ms }) hs), rfl⟩
  | err => exact ⟨_, step_of_transition hmoves (.writeFailed (s := { s with moves := ms }) hs), rfl⟩

/-- Settles O36: both operations respond in their acceptance step. -/
theorem readerConfiguration : Obligations.ReaderConfiguration :=
  fun _ => ⟨fun _ => ⟨_, rfl, rfl⟩, _, rfl, rfl⟩

end Sys2Proof.Machine
end

section
/-! PROOF. Two frames that arrive in chunks are read in order (spec/41_framed_reader.md R119): a READ without a deadline is
followed from IDLE (`IdleWith`) through its polls (`Accumulating`) and back, with what is left of the schedule. -/

namespace Sys2Proof.Machine

/-- The setting of R119, with the responses `out` delivered and the moves `ms` left. -/
structure Framed (out : List Response) (ms : List Move) (s : State) : Prop where
  framing : s.framingEn = true
  capacity : s.params.bufCap = none
  responses : s.responses = out
  moves : s.moves = ms

/-- CORE is in IDLE with LEFTOVER `l`. -/
structure IdleWith (l : Bytes) (out : List Response) (ms : List Move) (s : State) : Prop extends Framed out ms s where
  idle : s.state = .idle
  leftover : s.leftover = l

/-- A READ with `MIN = m` and no deadline polls, with ACC `a`. -/
structure Accumulating (m : U32) (a : Bytes) (out : List Response) (ms : List Move) (s : State) : Prop
    extends Framed out ms s where
  polling : s.state = .readPoll
  noDeadline : s.toMs = 0
  min : s.minBytes = m
  acc : s.acc = a

section
variable {m : U32} {a c l x r : Bytes} {out : List Response} {ms : List Move} {w : Bool} {s : State}

theorem run_one {t : State} (h : step s = .next t) : run 1 s = .next t := run_succ_of h (run_zero t)

theorem decodeRequest_read (t m : U32) : decodeRequest ⟨0x03, [.u32 t, .u32 m]⟩ = .ok (.read t m) := rfl

/-- READ finds a frame in LEFTOVER. -/
theorem IdleWith.read_of_frame (h : IdleWith l out (.request ⟨0x03, [.u32 0, .u32 m]⟩ :: ms) s)
    (hdec : slipDecode l = (some x, r)) :
    ∃ t, run 1 s = .next t ∧ IdleWith r (out ++ [.ofData .frame x]) ms t := by
  obtain ⟨⟨hframing, hcapacity, rfl, hmoves⟩, hidle, rfl⟩ := h
  exact ⟨_, run_one (step_of_transition hmoves (.readFast hidle (decodeRequest_read 0 m) hframing hdec)),
    ⟨hframing, hcapacity, rfl, rfl⟩, rfl, rfl⟩

/-- READ enters its loop. -/
theorem IdleWith.read_of_no_frame (h : IdleWith l out (.request ⟨0x03, [.u32 0, .u32 m]⟩ :: ms) s)
    (hdec : (slipDecode l).1 = none) : ∃ t, run 1 s = .next t ∧ Accumulating m l out ms t := by
  obtain ⟨⟨hframing, hcapacity, rfl, hmoves⟩, hidle, rfl⟩ := h
  exact ⟨_, run_one (step_of_transition hmoves (.readLoop hidle (decodeRequest_read 0 m) (.inr hdec))),
    ⟨hframing, hcapacity, rfl, rfl⟩, rfl, rfl, rfl, rfl⟩

/-- CHANNEL offers a chunk. -/
theorem Accumulating.offer {ans : Answers} (h : Accumulating m a out (.channel ans :: ms) s) :
    ∃ t, step s = .next t ∧ Accumulating m a out ms t ∧ t.answers = ans := by
  obtain ⟨⟨hframing, hcapacity, hout, hmoves⟩, hpoll, hto, hmin, hacc⟩ := h
  exact ⟨_, step_of_transition hmoves .answers, ⟨⟨hframing, hcapacity, hout, rfl⟩, hpoll, hto, hmin, hacc⟩, rfl⟩

theorem deadlinePassed_of_toMs_eq_zero (h : s.toMs = 0) : deadlinePassed s = false := by
  simp [deadlinePassed, h]

theorem within_of_unbounded {cap : Option Nat} (h : cap = none) (k : Nat) : within cap k = true := by
  rw [h]
  rfl

/-- A chunk that leaves ACC below MIN is kept. -/
theorem Accumulating.poll_below (h : Accumulating m a out (.channel ⟨true, w, some c⟩ :: .core :: ms) s)
    (hbelow : a.length + c.length < m.toNat) : ∃ t, run 2 s = .next t ∧ Accumulating m (a ++ c) out ms t := by
  obtain ⟨s', hoffer, ⟨⟨hframing, hcapacity, rfl, hmoves⟩, hpoll, hto, rfl, rfl⟩, hans⟩ := h.offer
  have hpolled := step_of_transition hmoves (.readChunk (x := c) hpoll (deadlinePassed_of_toMs_eq_zero hto)
    (by rw [hans]) (by rw [hans]) (within_of_unbounded hcapacity _) hbelow)
  exact ⟨_, run_succ_of hoffer (run_one hpolled), ⟨hframing, hcapacity, rfl, rfl⟩, hpoll, hto, rfl, rfl⟩

/-- The chunk that reaches MIN with a frame ends READ. -/
theorem Accumulating.poll_reaches (h : Accumulating m a out (.channel ⟨true, w, some c⟩ :: .core :: ms) s)
    (hreaches : m.toNat ≤ a.length + c.length) (hdec : slipDecode (a ++ c) = (some x, r)) :
    ∃ t, run 2 s = .next t ∧ IdleWith r (out ++ [.ofData .frame x]) ms t := by
  obtain ⟨s', hoffer, ⟨⟨hframing, hcapacity, rfl, hmoves⟩, hpoll, hto, rfl, rfl⟩, hans⟩ := h.offer
  have hpolled := step_of_transition hmoves (.readFrame (x := c) hpoll (deadlinePassed_of_toMs_eq_zero hto)
    (by rw [hans]) (by rw [hans]) (within_of_unbounded hcapacity _) hreaches hframing hdec)
  exact ⟨_, run_succ_of hoffer (run_one hpolled), ⟨hframing, hcapacity, rfl, rfl⟩, rfl, rfl⟩

/-! ### All polls of one READ -/

theorem pollMoves_cons (w : Bool) (c : Bytes) (cs : List Bytes) :
    pollMoves w (c :: cs) = .channel ⟨true, w, some c⟩ :: .core :: pollMoves w cs := rfl

theorem pollMoves_append (w : Bool) (cs ds : List Bytes) :
    pollMoves w (cs ++ ds) = pollMoves w cs ++ pollMoves w ds := List.flatMap_append

/-- Chunks that leave ACC below MIN at each append are all kept. -/
theorem Accumulating.polls_below {before : List Bytes} (h : Accumulating m a out (pollMoves w before ++ ms) s)
    (hbelow : ∀ q, q <+: before → q ≠ [] → a.length + q.flatten.length < m.toNat) :
    ∃ t, run (pollMoves w before).length s = .next t ∧ Accumulating m (a ++ before.flatten) out ms t := by
  induction before generalizing a s with
  | nil => exact ⟨s, rfl, by simpa [pollMoves] using h⟩
  | cons c cs ih =>
    have hc : a.length + c.length < m.toNat := by simpa using hbelow [c] (by simp) (by simp)
    obtain ⟨s', hrun, hs'⟩ := h.poll_below hc
    have hcs : ∀ q, q <+: cs → q ≠ [] → (a ++ c).length + q.flatten.length < m.toNat := by
      intro q hq _
      have := hbelow (c :: q) (List.cons_prefix_cons.mpr ⟨rfl, hq⟩) (by simp)
      simp only [List.flatten_cons, List.length_append] at this ⊢
      omega
    obtain ⟨t, hrun', ht⟩ := ih hs' hcs
    refine ⟨t, ?_, by simpa using ht⟩
    rw [pollMoves_cons, List.length_cons, List.length_cons, Nat.add_assoc, Nat.add_comm]
    exact run_add_of hrun hrun'

/-- The chunks that first reach MIN with a frame, the last of them ending READ. -/
theorem Accumulating.polls_reach {before : List Bytes} {last : Bytes}
    (h : Accumulating m a out (pollMoves w (before ++ [last]) ++ ms) s) (hfirst : FirstReaches m.toNat a.length before last)
    (hdec : slipDecode (a ++ (before ++ [last]).flatten) = (some x, r)) :
    ∃ t, run (pollMoves w (before ++ [last])).length s = .next t ∧ IdleWith r (out ++ [.ofData .frame x]) ms t := by
  obtain ⟨hbelow, hreaches⟩ := hfirst
  rw [pollMoves_append, List.append_assoc] at h
  obtain ⟨s', hrun, hs'⟩ := h.polls_below hbelow
  have hmin : m.toNat ≤ (a ++ before.flatten).length + last.length := by simpa [Nat.add_assoc] using hreaches
  obtain ⟨t, hrun', ht⟩ := hs'.poll_reaches hmin (by simpa using hdec)
  refine ⟨t, ?_, ht⟩
  rw [pollMoves_append, List.length_append]
  exact run_add_of hrun hrun'

/-- A READ that finds no frame in LEFTOVER and one with the chunks that first reach MIN. -/
theorem IdleWith.read_chunks {before : List Bytes} {last : Bytes}
    (h : IdleWith l out (.request ⟨0x03, [.u32 0, .u32 m]⟩ :: (pollMoves w (before ++ [last]) ++ ms)) s)
    (hnone : (slipDecode l).1 = none) (hfirst : FirstReaches m.toNat l.length before last)
    (hdec : slipDecode (l ++ (before ++ [last]).flatten) = (some x, r)) :
    ∃ t, run (1 + (pollMoves w (before ++ [last])).length) s = .next t ∧
      IdleWith r (out ++ [.ofData .frame x]) ms t := by
  obtain ⟨s', hrun, hs'⟩ := h.read_of_no_frame hnone
  obtain ⟨t, hrun', ht⟩ := hs'.polls_reach hfirst hdec
  exact ⟨t, run_add_of hrun hrun', ht⟩

end

/-! ### Two READs -/

theorem slipDecode_slipEncode (p : Bytes) : slipDecode (slipEncode p) = (some p, []) := by
  rw [← List.append_nil (slipEncode p), slipDecode_slipEncode_append]

/-- A part of an encoded frame that lacks its end holds no frame. -/
theorem slipDecode_of_part {kept rest p : Bytes} (h : kept ++ rest = slipEncode p)
    (hlength : kept.length < (slipEncode p).length) : (slipDecode kept).1 = none := by
  have hkept : kept <+: slipEncode p := ⟨rest, h⟩
  have hbody : (0xC0#8 :: escapeAll p) <+: slipEncode p := ⟨[0xC0#8], rfl⟩
  have hle : kept.length ≤ (0xC0#8 :: escapeAll p).length := by
    rw [slipEncode_eq, List.length_cons, List.length_append] at hlength
    exact Nat.le_of_lt_succ hlength
  rw [slipDecode_fst_eq_none_iff]
  calc kept.count 0xC0#8 ≤ (0xC0#8 :: escapeAll p).count 0xC0#8 :=
        (List.prefix_of_prefix_length_le hkept hbody hle).sublist.count_le _
    _ = 1 := by rw [List.count_cons_self, List.count_eq_zero_of_not_mem (end_not_mem_escapeAll p)]

/-- Settles O31: the first READ polls the first frame and keeps what came after it; the second takes its frame from
LEFTOVER, or polls the rest of it. -/
theorem twoFramesInChunksAreReadInOrder : Obligations.TwoFramesInChunksAreReadInOrder := by
  intro p1 p2 kept m s w before1 before2 last1 last2 hidle hframing hleft hcap hchunks1 hfirst1
  have hdec1 : slipDecode ([] ++ (before1 ++ [last1]).flatten) = (some p1, kept) := by
    rw [List.nil_append, hchunks1, slipDecode_slipEncode_append]
  have hstart : ∀ ms, s.moves = ms → IdleWith [] s.responses ms s := fun ms hmoves =>
    ⟨⟨hframing, hcap, rfl, hmoves⟩, hidle, hleft⟩
  refine ⟨fun hkept hmoves => ?_, fun hpart hchunks2 hfirst2 hmoves => ?_⟩
  · obtain ⟨s1, hrun1, hs1⟩ := (hstart _ hmoves).read_chunks rfl hfirst1 hdec1
    have hdec2 : slipDecode kept = (some p2, []) := by rw [hkept, slipDecode_slipEncode]
    obtain ⟨t, hrun2, ht⟩ := hs1.read_of_frame hdec2
    refine ⟨t, ?_, ht.leftover, ht.idle, by rw [ht.responses, List.append_assoc]; rfl⟩
    have hlength : s.moves.length = 1 + (pollMoves w (before1 ++ [last1])).length + 1 := by
      simp only [hmoves, List.length_append, List.length_cons, List.length_nil]
      omega
    rw [hlength]
    exact run_add_of hrun1 hrun2
  · obtain ⟨s1, hrun1, hs1⟩ := (hstart _ hmoves).read_chunks rfl hfirst1 hdec1
    have hdec2 : slipDecode (kept ++ (before2 ++ [last2]).flatten) = (some p2, []) := by
      rw [hchunks2, slipDecode_slipEncode]
    rw [← List.append_nil (pollMoves w (before2 ++ [last2]))] at hs1
    obtain ⟨t, hrun2, ht⟩ := hs1.read_chunks (slipDecode_of_part hchunks2 hpart) hfirst2 hdec2
    refine ⟨t, ?_, ht.leftover, ht.idle, by rw [ht.responses, List.append_assoc]; rfl⟩
    have hlength : s.moves.length =
        1 + (pollMoves w (before1 ++ [last1])).length + (1 + (pollMoves w (before2 ++ [last2])).length) := by
      simp only [hmoves, List.length_append, List.length_cons]
      omega
    rw [hlength]
    exact run_add_of hrun1 hrun2

end Sys2Proof.Machine
end

section
/-! PROOF. The line controller's commands, one by one (spec/42_line_controller.md R125-R128). -/

namespace Sys2Proof.Machine

/-- Settles O37: each of the two commands is one update of the state. -/
theorem setLineIsLocal : Obligations.SetLineIsLocal :=
  fun _ _ => ⟨rfl, rfl⟩

/-- Settles O38: the command event is recorded first and the `set_lines` after it. -/
theorem commitSendsBothPendingLines : Obligations.CommitSendsBothPendingLines := by
  intro s
  rw [List.append_cons]
  rfl

/-- Settles O39: the transition of each acknowledgement. -/
theorem commitCompletesAtItsAck : Obligations.CommitCompletesAtItsAck := by
  intro s ms hs
  refine ⟨fun hmoves => ?_, fun hmoves => ?_⟩
  · exact step_of_transition hmoves (.committed (s := { s with moves := ms }) hs)
  · exact ⟨_, step_of_transition hmoves (.commitFailed (s := { s with moves := ms }) hs), rfl⟩

end Sys2Proof.Machine
end

section
/-! PROOF. A running sequence executes the commands of SEQ in order and issues exactly their `set_lines`
(spec/42_line_controller.md R127, R130): `Executes s t done` says so of the part of a run from `s` to `t`, a step that
delivers no response executes one command or none, and the parts of a run are put together. -/

namespace Sys2Proof.Machine

/-- The commands of SEQ that are still to be executed. IDX advances only when a command completes, so in SEQ_WAIT and
SEQ_COMMIT_AWAIT the command at IDX is executed already (10_state.md R30). -/
def State.remaining (s : State) : List Command := s.seq.drop (if s.state = .seqRun then s.idx else s.idx + 1)

/-- Between `s` and `t` a running sequence has executed the commands `done`, and goes on. -/
structure Executes (s t : State) (done : List Command) : Prop where
  sequencing : t.sequencing
  remaining : s.remaining = done ++ t.remaining
  recorded : commands t.history = commands s.history ++ done
  /-- Whatever follows `done`: from `s` on, the channel events are those that `t` has and those still to come from its
  pending lines. -/
  issued : ∀ rest, channelEvents s.history ++ lineUpdates s.pendDtr s.pendRts (done ++ rest) =
    channelEvents t.history ++ lineUpdates t.pendDtr t.pendRts rest

theorem Executes.trans {s t u : State} {cs ds : List Command} (h : Executes s t cs) (h' : Executes t u ds) :
    Executes s u (cs ++ ds) where
  sequencing := h'.sequencing
  remaining := by rw [h.remaining, h'.remaining, List.append_assoc]
  recorded := by rw [h'.recorded, h.recorded, List.append_assoc]
  issued rest := by rw [List.append_assoc, h.issued, h'.issued]

/-- No command is executed while STATE, SEQ, IDX and the pending lines stay and neither a command nor a channel event is
recorded. -/
theorem Executes.none {s t : State} (hs : s.sequencing) (hstate : t.state = s.state)
    (hregisters : t.persistent = s.persistent) (hcommands : commands t.history = commands s.history)
    (hevents : channelEvents t.history = channelEvents s.history) : Executes s t [] := by
  obtain ⟨-, hdtr, hrts, -, hseq, -, hidx⟩ := persistent_eq_iff.mp hregisters
  constructor
  case sequencing => simpa only [State.sequencing, hstate] using hs
  case remaining => simp [State.remaining, hstate, hseq, hidx]
  case recorded => rw [hcommands, List.append_nil]
  case issued => simp [hevents, hdtr, hrts]

theorem remaining_of_not_seqRun {s : State} (hs : s.state ≠ .seqRun) : s.remaining = s.seq.drop (s.idx + 1) := by
  rw [State.remaining, if_neg hs]

/-- In SEQ_RUN the command at IDX is the next one. -/
theorem remaining_of_command {s : State} {c : Command} (hs : s.state = .seqRun) (hc : s.seq[s.idx]? = some c) :
    s.remaining = [c] ++ s.seq.drop (s.idx + 1) := by
  obtain ⟨hlt, rfl⟩ := List.getElem?_eq_some_iff.mp hc
  rw [State.remaining, if_pos hs]
  exact List.drop_eq_getElem_cons hlt

theorem lateAck_commands (k : Nat) (r : Ack) (s : State) : commands (lateAck k r s).history = commands s.history := by
  rcases lateAck_eq k r s with h | h <;> rw [h]
  simp [Event.command]

/-- A transition of a running sequence that delivers no response executes one command or none. -/
theorem Transition.executes {m : Move} {s t : State} (htr : Transition m s t) (hs : s.sequencing)
    (hm : m ≠ .blockReset) (hnone : t.responses = s.responses) : ∃ done, Executes s t done := by
  cases htr with
  -- the command at IDX
  | @setDTR _ v hrun _ hc =>
    exact ⟨[.setDTR v], .inl hrun, (remaining_of_command hrun hc).trans (by simp [State.remaining, hrun]),
      by simp [Event.command], by simp [Event.isChannel, lineUpdates]⟩
  | @setRTS _ v hrun _ hc =>
    exact ⟨[.setRTS v], .inl hrun, (remaining_of_command hrun hc).trans (by simp [State.remaining, hrun]),
      by simp [Event.command], by simp [Event.isChannel, lineUpdates]⟩
  | commit hrun _ hc =>
    exact ⟨[.commit], .inr (.inr rfl), remaining_of_command hrun hc, by simp [Event.command],
      by simp [Event.isChannel, lineUpdates]⟩
  | @waitStart _ n hrun _ hc =>
    exact ⟨[.wait n], .inr (.inl rfl), remaining_of_command hrun hc, by simp [Event.command],
      by simp [Event.isChannel, lineUpdates]⟩
  -- a Wait or a Commit completes, executed already
  | waitEnd hwait =>
    exact ⟨[], .inl rfl, remaining_of_not_seqRun (by simp [hwait]), by simp, by simp⟩
  | committed hawait =>
    exact ⟨[], .inl rfl, remaining_of_not_seqRun (by simp [hawait]), by simp [Event.command],
      by simp [Event.isChannel]⟩
  -- nothing of the sequence
  | noStep | waitMore | tickWait | tickIdle | answers | present | codecToken | codecEnd =>
    exact ⟨[], .none hs rfl rfl rfl rfl⟩
  | late =>
    exact ⟨[], .none hs (lateAck_state _ _ _) (lateAck_persistent _ _ _) (lateAck_commands _ _ _)
      (lateAck_channelEvents _ _ _)⟩
  -- a response, or block reset
  | sequenceEnd | commitFailed => simp at hnone
  | reset => exact absurd rfl hm
  -- no transition of another operation, and none of IDLE
  | encodeFrame h | decodeFrame h | readFast h | readLoop h | rawDrain h | rawLoop h | write h | unwritable h
  | classicReset h | usbJtagSerialReset h | hardReset h | customReset h | customInvalid h | validate h | setFraming h
  | notifyConnect h | reserved h | readDeadline h | readUnreadable h | readNone h | readChunk h | readFrame h
  | readNoFrame h | readUnframed h | rawDeadline h | rawUnreadable h | rawChunk h | rawNone h | flushed h
  | written h | writeFailed h => exact absurd hs (by simp [State.sequencing, h])
  | tickRead h => rcases h with h | h <;> exact absurd hs (by simp [State.sequencing, h])

/-- Taking the move executes nothing. -/
theorem step_executes {s t : State} (hs : s.sequencing) (hstep : step s = .next t)
    (hm : (takeMove s).1 ≠ .blockReset) (hnone : t.responses = s.responses) : ∃ done, Executes s t done := by
  have htr := step_cases hstep
  obtain ⟨ms, d, htake⟩ := takeMove_frame s
  rw [htake] at htr
  obtain ⟨done, h⟩ := htr.executes hs hm hnone
  exact ⟨done, { h with }⟩

/-- A run of a sequence without a block reset and without its response executes some of its commands, and the schedule
left holds no block reset either. -/
theorem run_executes {j k : Nat} {s t : State} (hs : s.sequencing) (hreset : s.noResetFor (k + j))
    (hrun : run k s = .next t) (hnone : t.responses = s.responses) :
    (∃ done, Executes s t done) ∧ t.noResetFor j := by
  refine run_keeps_until_response (P := fun t => ∃ done, Executes s t done) ?_ hreset hrun hnone
    ⟨[], .none hs rfl rfl rfl rfl⟩
  rintro t u ⟨done, h⟩ hstep hm hsame
  obtain ⟨cs, h'⟩ := step_executes h.sequencing hstep hm hsame
  exact ⟨done ++ cs, h.trans h'⟩

/-- Settles O47: the run executes a first part of the commands from IDX on, and issues what they issue. -/
theorem sequenceIssuesExactlyItsLineUpdates : Obligations.SequenceIssuesExactlyItsLineUpdates := by
  intro s t k _ hs hreset hrun hnone
  obtain ⟨⟨done, h⟩, _⟩ := run_executes (j := 0) (.inl hs) hreset hrun hnone
  have hremaining : s.remaining = s.seq.drop s.idx := by rw [State.remaining, if_pos hs]
  refine ⟨done, ⟨t.remaining, ?_⟩, h.recorded, ?_⟩
  · rw [← hremaining, h.remaining]
  · simpa [lineUpdates] using (h.issued []).symm

end Sys2Proof.Machine
end

section
/-! PROOF. The steps of a running sequence (spec/43_reset_sequencer.md R133-R139): without a block reset the sequence goes
on, or it ends with OK after its last command, or with its error at a failed Commit (`SequenceMove`). A step by which it
goes on neither reads nor writes OP and ERRMODE, so another opcode and error mode change nothing but a failed Commit's
report. -/

namespace Sys2Proof.Machine

/-- `s` with another opcode and error mode. -/
def State.withMode (s : State) (opcode : Byte) (mode : ErrMode) : State := { s with op := opcode, errmode := mode }

/-- The sequence of `s` still runs in `t`, with the error mode it started with. -/
structure SameSequence (s t : State) : Prop where
  sequencing : t.sequencing
  seq : t.seq = s.seq
  errmode : t.errmode = s.errmode

/-- By the move `m` the sequence goes on from `s` to `t`, and it would do the same with any opcode and error mode. -/
structure GoesOn (m : Move) (s t : State) : Prop extends SameSequence s t where
  responses : t.responses = s.responses
  withMode : ∀ opcode mode, Transition m (s.withMode opcode mode) (t.withMode opcode mode)

/-- What a move other than block reset does to a running sequence. -/
inductive SequenceMove : Move → State → State → Prop
  | goesOn {m s t} : GoesOn m s t → SequenceMove m s t
  | completes {s} : s.state = .seqRun → s.idx = s.n → SequenceMove .core s s.done
  | commitFails {s} : s.state = .seqCommitAwait →
      SequenceMove (.ack s.issued .err) s ((s.record (.ack s.issued .err)).raise (commitFailure s.errmode))

/-! ### Every transition of a running sequence -/

theorem lateAck_withMode (k : Nat) (r : Ack) (s : State) (opcode : Byte) (mode : ErrMode) :
    lateAck k r (s.withMode opcode mode) = (lateAck k r s).withMode opcode mode := by
  have hissued : (s.withMode opcode mode).issued = s.issued := rfl
  have hseen : acknowledged k (s.withMode opcode mode) = acknowledged k s := rfl
  rw [lateAck, lateAck, hissued, hseen]
  split <;> rfl

/-- A discarded acknowledgement is at most recorded, in every error mode alike. -/
theorem goesOn_lateAck {s : State} {k : Nat} {r : Ack} (hs : s.sequencing) (hlate : ¬ s.state.awaits ∨ k ≠ s.issued) :
    GoesOn (.ack k r) s (lateAck k r s) where
  sequencing := by simpa only [State.sequencing, lateAck_state] using hs
  seq := by rcases lateAck_eq k r s with h | h <;> rw [h]; rfl
  errmode := by rcases lateAck_eq k r s with h | h <;> rw [h]; rfl
  responses := lateAck_responses k r s
  withMode opcode mode := by
    rw [← lateAck_withMode]
    exact .late hlate

/-- Only the two responses end a sequence, and only the failed Commit's reads ERRMODE. -/
theorem Transition.sequenceMove {m : Move} {s t : State} (htr : Transition m s t) (hs : s.sequencing)
    (hm : m ≠ .blockReset) : SequenceMove m s t := by
  cases htr with
  -- the command at IDX, and the end of a Wait or a Commit
  | setDTR hrun hi hc => exact .goesOn ⟨⟨.inl hrun, rfl, rfl⟩, rfl, fun _ _ => .setDTR hrun hi hc⟩
  | setRTS hrun hi hc => exact .goesOn ⟨⟨.inl hrun, rfl, rfl⟩, rfl, fun _ _ => .setRTS hrun hi hc⟩
  | commit hrun hi hc => exact .goesOn ⟨⟨.inr (.inr rfl), rfl, rfl⟩, rfl, fun _ _ => .commit hrun hi hc⟩
  | waitStart hrun hi hc => exact .goesOn ⟨⟨.inr (.inl rfl), rfl, rfl⟩, rfl, fun _ _ => .waitStart hrun hi hc⟩
  | waitEnd hwait hle => exact .goesOn ⟨⟨.inl rfl, rfl, rfl⟩, rfl, fun _ _ => .waitEnd hwait hle⟩
  | committed hawait =>
    exact .goesOn ⟨⟨.inl rfl, rfl, rfl⟩, rfl,
      fun opcode mode => .committed (s := s.withMode opcode mode) hawait⟩
  -- nothing of the sequence but its timer
  | noStep h => exact .goesOn ⟨⟨hs, rfl, rfl⟩, rfl, fun _ _ => .noStep h⟩
  | waitMore hwait hlt => exact .goesOn ⟨⟨hs, rfl, rfl⟩, rfl, fun _ _ => .waitMore hwait hlt⟩
  | tickWait hwait => exact .goesOn ⟨⟨hs, rfl, rfl⟩, rfl, fun _ _ => .tickWait hwait⟩
  | tickIdle hread hraw hwait => exact .goesOn ⟨⟨hs, rfl, rfl⟩, rfl, fun _ _ => .tickIdle hread hraw hwait⟩
  | answers => exact .goesOn ⟨⟨hs, rfl, rfl⟩, rfl, fun _ _ => .answers⟩
  | present => exact .goesOn ⟨⟨hs, rfl, rfl⟩, rfl, fun _ _ => .present⟩
  | codecToken htoken => exact .goesOn ⟨⟨hs, rfl, rfl⟩, rfl, fun _ _ => .codecToken htoken⟩
  | codecEnd hend => exact .goesOn ⟨⟨hs, rfl, rfl⟩, rfl, fun _ _ => .codecEnd hend⟩
  | late hlate => exact .goesOn (goesOn_lateAck hs hlate)
  -- the response
  | sequenceEnd hrun hi => exact .completes hrun hi
  | commitFailed hawait => exact .commitFails hawait
  | reset => exact absurd rfl hm
  -- no transition of another operation, and none of IDLE
  | tickRead h => rcases h with h | h <;> exact absurd hs (by simp [State.sequencing, h])
  | _ h => exact absurd hs (by simp [State.sequencing, h])

/-- Only a response adds to the responses, so without a new one the sequence goes on. -/
theorem SequenceMove.goesOn_of_no_response {m : Move} {s t : State} (h : SequenceMove m s t)
    (hnone : t.responses.length ≤ s.responses.length) : GoesOn m s t := by
  cases h with
  | goesOn h => exact h
  | completes | commitFails => simp at hnone

/-! ### Steps and runs -/

theorem step_sequenceMove {s t : State} (hs : s.sequencing) (hstep : step s = .next t)
    (hm : (takeMove s).1 ≠ .blockReset) : SequenceMove (takeMove s).1 (takeMove s).2 t :=
  (step_cases hstep).sequenceMove (by rwa [State.sequencing, takeMove_state]) hm

theorem step_goesOn {s t : State} (hs : s.sequencing) (hstep : step s = .next t) (hm : (takeMove s).1 ≠ .blockReset)
    (hnone : t.responses.length ≤ s.responses.length) : GoesOn (takeMove s).1 (takeMove s).2 t :=
  (step_sequenceMove hs hstep hm).goesOn_of_no_response (by rwa [takeMove_responses])

/-- Taking the move leaves the sequence as it is. -/
theorem GoesOn.sameSequence_of_takeMove {s t : State} (h : GoesOn (takeMove s).1 (takeMove s).2 t) :
    SameSequence s t := by
  obtain ⟨ms, d, htake⟩ := takeMove_frame s
  rw [htake] at h
  exact ⟨h.sequencing, h.seq, h.errmode⟩

/-- A run without a response is still in its sequence, and leaves a schedule without a block reset. -/
theorem run_sameSequence {j k : Nat} {s t : State} (hs : s.sequencing) (hreset : s.noResetFor (k + j))
    (hrun : run k s = .next t) (hnone : t.responses = s.responses) : SameSequence s t ∧ t.noResetFor j := by
  refine run_keeps_until_response ?_ hreset hrun hnone (P := SameSequence s) ⟨hs, rfl, rfl⟩
  intro t u h hstep hm hsame
  have h' := (step_goesOn h.sequencing hstep hm (by rw [hsame])).sameSequence_of_takeMove
  exact ⟨h'.sequencing, h'.seq.trans h.seq, h'.errmode.trans h.errmode⟩

theorem Inv.run {k : Nat} {s t : State} (h : Inv s) (hrun : run k s = .next t) : Inv t := by
  induction k generalizing s with
  | zero => cases hrun; exact h
  | succ k ih =>
    obtain ⟨s', hstep, hrun'⟩ := run_succ_next hrun
    exact ih ((everyStepKeepsTheInvariant s h).2 s' hstep) hrun'

end Sys2Proof.Machine
end

section
/-! PROOF. How a sequence ends (spec/43_reset_sequencer.md R134, R137-R139): what it has executed by the time of its response
(`Executes`) and the step that responds (`SequenceMove`) are put together. -/

namespace Sys2Proof.Machine

/-- How the sequence that started in `s` ends in `u` with the response `r`: with OK after all its commands, or with its error
after the commands up to a Commit. -/
def SequenceEnds (s u : State) (r : Response) : Prop :=
  (r = .plain .ok ∧ commands u.history = commands s.history ++ s.seq) ∨
  (r = .plain (commitFailure s.errmode) ∧
    ∃ j, s.seq[j]? = some .commit ∧ commands u.history = commands s.history ++ s.seq.take (j + 1))

theorem remaining_of_start {s : State} (hs : s.state = .seqRun) (h0 : s.idx = 0) : s.remaining = s.seq := by
  rw [State.remaining, if_pos hs, h0, List.drop_zero]

/-- With IDX = N every command has completed (43_reset_sequencer.md R137). -/
theorem remaining_of_end {s : State} (h : Inv s) (hs : s.state = .seqRun) (hi : s.idx = s.n) : s.remaining = [] := by
  rw [State.remaining, if_pos hs, hi, h.seqLength, List.drop_length]

/-- What has been executed by the time of a response tells how the sequence ends. -/
theorem Executes.sequenceEnds {s t u : State} {m : Move} {done : List Command} {r : Response} (h : Executes s t done)
    (hs : s.state = .seqRun) (h0 : s.idx = 0) (hinv : Inv t) (hsame : SameSequence s t) (hmove : SequenceMove m t u)
    (hr : u.responses = t.responses ++ [r]) : SequenceEnds s u r := by
  have hdone : s.seq = done ++ t.remaining := (remaining_of_start hs h0).symm.trans h.remaining
  cases hmove with
  | goesOn hon => simp [hon.responses] at hr
  | completes hrun hi =>
    rw [remaining_of_end hinv hrun hi, List.append_nil] at hdone
    obtain rfl : r = .plain .ok := by simpa using hr.symm
    exact .inl ⟨rfl, by rw [hdone]; exact h.recorded⟩
  | commitFails hawait =>
    have hcommit := hinv.committing hawait
    rw [remaining_of_not_seqRun (by simp [hawait]), hsame.seq] at hdone
    have hfirst : s.seq.take (t.idx + 1) = done :=
      List.append_cancel_right ((List.take_append_drop (t.idx + 1) s.seq).trans hdone)
    rw [hsame.seq] at hcommit
    obtain rfl : r = .plain (commitFailure t.errmode) := by simpa using hr.symm
    refine .inr ⟨by rw [hsame.errmode], t.idx, hcommit, ?_⟩
    simp [Event.command, h.recorded, hfirst]

/-- Settles O46: up to the response the run executes a first part of SEQ, and the step that responds is the end of a sequence
whose every command has completed, or the failure of the Commit at IDX. -/
theorem sequenceRunsInListOrderToItsEnd : Obligations.SequenceRunsInListOrderToItsEnd := by
  intro s t u k r hinv hs h0 hreset hrun hnone hstep hr
  obtain ⟨⟨done, hdone⟩, hlast⟩ := run_executes (.inl hs) hreset hrun hnone
  obtain ⟨hsame, -⟩ := run_sameSequence (.inl hs) hreset hrun hnone
  have hmove := step_sequenceMove hsame.sequencing hstep (hlast.step hstep).1
  obtain ⟨ms, d, htake⟩ := takeMove_frame t
  rw [htake] at hmove
  exact Executes.sequenceEnds (t := { t with moves := ms, draws := d }) { hdone with } hs h0 { hinv.run hrun with }
    { hsame with } hmove (hr.trans (by rw [← hnone]))

end Sys2Proof.Machine
end

section
/-! PROOF. Opcode and error mode in a running sequence (spec/43_reset_sequencer.md R138, R151): while the sequence goes on,
the runs of two modes are the same run, and its last step differs at most in the report of a failed Commit. -/

namespace Sys2Proof.Machine

/-! ### The run -/

theorem takeMove_withMode (s : State) (opcode : Byte) (mode : ErrMode) :
    takeMove (s.withMode opcode mode) = ((takeMove s).1, (takeMove s).2.withMode opcode mode) := by
  cases hmoves : s.moves with
  | nil => simp only [takeMove, State.withMode, hmoves]
  | cons m ms => simp only [takeMove, State.withMode, hmoves]

/-- With another opcode and error mode a step takes the same move. -/
theorem step_withMode_of {s v : State} {opcode : Byte} {mode : ErrMode}
    (h : Transition (takeMove s).1 ((takeMove s).2.withMode opcode mode) v) :
    step (s.withMode opcode mode) = .next v := by
  rw [step_eq, takeMove_withMode]
  exact moveResult_of h

/-- A run without a response is the same run with any opcode and error mode. -/
theorem run_withMode {j k : Nat} {s t : State} (hs : s.sequencing) (hreset : s.noResetFor (k + j))
    (hrun : run k s = .next t) (hnone : t.responses.length ≤ s.responses.length) (opcode : Byte) (mode : ErrMode) :
    run k (s.withMode opcode mode) = .next (t.withMode opcode mode) := by
  induction k generalizing s with
  | zero => cases hrun; rfl
  | succ k ih =>
    obtain ⟨s', hstep, hrun'⟩ := run_succ_next hrun
    rw [Nat.add_right_comm] at hreset
    obtain ⟨hm, hreset'⟩ := hreset.step hstep
    have hon := step_goesOn hs hstep hm ((run_responses_length_le hrun').trans hnone)
    exact run_succ_of (step_withMode_of (hon.withMode opcode mode))
      (ih hon.sequencing hreset' hrun' (hnone.trans (step_responses_length_le hstep)))

/-! ### The report -/

/-- `u` and `v` end a step from `s` that differed in nothing but OP and ERRMODE, the latter being `mode` for `v`: only the
report of a failed Commit tells them apart. -/
def DiffersOnlyInReport (s : State) (mode : ErrMode) (u v : State) : Prop :=
  v.history = u.history ∧ v.state = u.state ∧ v.idx = u.idx ∧ v.pendDtr = u.pendDtr ∧ v.pendRts = u.pendRts ∧
    (v.responses = u.responses ∨
      (u.responses = s.responses ++ [.plain (commitFailure s.errmode)] ∧
       v.responses = s.responses ++ [.plain (commitFailure mode)]))

theorem SequenceMove.differsOnlyInReport {m : Move} {s u : State} (h : SequenceMove m s u) (opcode : Byte)
    (mode : ErrMode) : ∃ v, Transition m (s.withMode opcode mode) v ∧ DiffersOnlyInReport s mode u v := by
  cases h with
  | goesOn h => exact ⟨_, h.withMode opcode mode, rfl, rfl, rfl, rfl, rfl, .inl rfl⟩
  | completes hrun hi => exact ⟨_, .sequenceEnd hrun hi, rfl, rfl, rfl, rfl, rfl, .inl rfl⟩
  | commitFails hawait =>
    exact ⟨_, .commitFailed (s := s.withMode opcode mode) hawait, rfl, rfl, rfl, rfl, rfl, .inr ⟨rfl, rfl⟩⟩

/-- Settles O48: up to the response the two runs are one run, and in the last step only the report of a failed Commit reads
ERRMODE. -/
theorem errorModeChangesOnlyTheReport : Obligations.ErrorModeChangesOnlyTheReport := by
  intro s t u k opcode mode hs hreset hrun hnone hstep
  obtain ⟨hsame, hlast⟩ := run_sameSequence hs hreset hrun hnone
  have hmove := step_sequenceMove hsame.sequencing hstep (hlast.step hstep).1
  obtain ⟨v, htr, hv⟩ := hmove.differsOnlyInReport opcode mode
  refine ⟨run_withMode hs hreset hrun (by rw [hnone]) opcode mode, v, step_withMode_of htr, ?_⟩
  rw [← hnone, ← hsame.errmode]
  obtain ⟨ms, d, htake⟩ := takeMove_frame t
  rw [htake] at hv
  exact hv

end Sys2Proof.Machine
end

section
/-! PROOF. The requests and continuations of the sequencer, one by one (spec/43_reset_sequencer.md R133-R149). -/

namespace Sys2Proof.Machine

/-! ### Wait, and the end of a sequence -/

/-- Settles O40: the start is one update of the state, and each end is the transition with its guard. -/
theorem waitStartsAndEnds : Obligations.WaitStartsAndEnds := by
  refine ⟨fun _ _ => rfl, fun s ms hmoves => ⟨fun hs hle => ?_, fun hs hlt => ?_, fun hs hi => ?_⟩⟩
  · exact step_of_transition hmoves (.waitEnd hs hle)
  · exact step_of_transition hmoves (.waitMore hs hlt)
  · exact ⟨_, step_of_transition hmoves (.sequenceEnd hs hi), rfl⟩

/-! ### The built-in strategies -/

/-- With a delay the classic list has its second Wait (43_reset_sequencer.md R142). -/
theorem classicList_of_ne_zero {d : U32} (hd : d ≠ 0) : classicList d =
    [.setDTR false, .setRTS true, .commit, .wait 100, .setDTR true, .setRTS false, .commit, .wait d,
      .setDTR false, .commit] := by
  rw [classicList, if_neg hd]
  rfl

theorem exec_classicReset (d : U32) (s : State) :
    exec (.classicReset d) s = .next ((s.accept 0x06).start (classicList d) .propagate) := rfl

/-- Settles O42: each strategy starts its list; the classic one leaves its second Wait out when the delay is 0. -/
theorem strategiesLoadTheirLists : Obligations.StrategiesLoadTheirLists := by
  refine fun s => ⟨fun d hd => ?_, rfl, rfl, rfl, rfl⟩
  rw [exec_classicReset, classicList_of_ne_zero hd]
  rfl

/-! ### Custom sequences -/

theorem sequenceFits_iff (q : Bytes) (s : State) :
    sequenceFits q s = true ↔ ∀ c, s.params.seqMaxLen = some c → q.length ≤ c :=
  within_iff _ _

theorem exec_customReset_valid {q : Bytes} {s : State} {cs : List Command} (hfits : sequenceFits q s = true)
    (hparse : parse s.params.sArgStrict q = some cs) :
    exec (.customReset q) s = .next ((s.accept 0x09).start cs .wrap) := by
  rw [exec, execCustomReset, orOverflow_of hfits, hparse]

theorem exec_customReset_invalid {q : Bytes} {s : State} (hfits : sequenceFits q s = true)
    (hparse : parse s.params.sArgStrict q = none) :
    exec (.customReset q) s = .next ((s.accept 0x09).respond (.plain .ok)) := by
  rw [exec, execCustomReset, orOverflow_of hfits, hparse, done_eq]

theorem exec_validate {q : Bytes} {s : State} (hfits : sequenceFits q s = true) :
    exec (.validateCustomResetSequence q) s =
      .next ((s.accept 0x0A).respond ⟨.ok, .bool, valid s.params.sArgStrict q, [], []⟩) :=
  orOverflow_of hfits _

/-- Settles O43: a valid string starts its list, and for an invalid one the response is the only change. -/
theorem customResetStartsOrDoesNothing : Obligations.CustomResetStartsOrDoesNothing := by
  intro q s hcap
  have hfits := (sequenceFits_iff q s).mpr hcap
  exact ⟨fun cs hparse => exec_customReset_valid hfits hparse,
    fun hparse => ⟨_, exec_customReset_invalid hfits hparse, settled_accept_respond s _ _⟩⟩

/-- Settles O44: the response is the only change; the rule's examples are closed strings. -/
theorem validateAnswersValidity : Obligations.ValidateAnswersValidity :=
  ⟨fun q s hcap => ⟨_, exec_validate ((sequenceFits_iff q s).mpr hcap), settled_accept_respond s _ _⟩, by decide⟩

end Sys2Proof.Machine
end

section
/-! PROOF. What a model records only grows (spec/00_scope.md R11, R12, spec/60_exceptions.md R170): each state operation
adds to the records of `Grows` or leaves them, and a transition is made of these operations. -/

namespace Sys2Proof.Machine

/-- From `s` to `t` no record is taken back and no parameter changes. -/
def Grows (s t : State) : Prop :=
  s.history <+: t.history ∧ s.responses <+: t.responses ∧ t.params = s.params ∧
    (s.refusalMark = true → t.refusalMark = true) ∧ s.issued ≤ t.issued

/-! ### What each state operation does to the records -/

theorem Grows.refl (s : State) : Grows s s :=
  ⟨List.prefix_refl _, List.prefix_refl _, rfl, id, Nat.le_refl _⟩

theorem Grows.trans {s t u : State} (h : Grows s t) (h' : Grows t u) : Grows s u := by
  obtain ⟨hhistory, hresponses, hparams, hmark, hissued⟩ := h
  obtain ⟨hhistory', hresponses', hparams', hmark', hissued'⟩ := h'
  exact ⟨hhistory.trans hhistory', hresponses.trans hresponses', hparams'.trans hparams, hmark' ∘ hmark,
    hissued.trans hissued'⟩

theorem grows_record (s : State) (e : Event) : Grows s (s.record e) :=
  ⟨List.prefix_append _ _, List.prefix_refl _, rfl, id, Nat.le_refl _⟩

theorem grows_issue (s : State) (e : Event) : Grows s (s.issue e) :=
  ⟨List.prefix_append _ _, List.prefix_refl _, rfl, id, Nat.le_succ _⟩

theorem grows_respond (s : State) (r : Response) : Grows s (s.respond r) :=
  ⟨List.prefix_refl _, List.prefix_append _ _, rfl, id, Nat.le_refl _⟩

theorem grows_refuse (s : State) : Grows s s.refuse :=
  ⟨List.prefix_refl _, List.prefix_refl _, rfl, fun _ => rfl, Nat.le_refl _⟩

theorem grows_record_respond (s : State) (e : Event) (r : Response) : Grows s ((s.record e).respond r) :=
  (grows_record s e).trans (grows_respond _ r)

theorem grows_record_issue (s : State) (e e' : Event) : Grows s ((s.record e).issue e') :=
  (grows_record s e).trans (grows_issue _ e')

/-- A poll records its two queries. -/
theorem grows_polled (s : State) : Grows s s.askReadable.pollChunk :=
  (grows_record s _).trans (grows_record s.askReadable _)

theorem grows_polled_respond (s : State) (r : Response) : Grows s (s.askReadable.pollChunk.respond r) :=
  (grows_polled s).trans (grows_respond _ r)

theorem grows_lateAck (k : Nat) (a : Ack) (s : State) : Grows s (lateAck k a s) := by
  rcases lateAck_eq k a s with h | h <;> rw [h]
  · exact .refl s
  · exact grows_record s _

theorem grows_takeMove (s : State) : Grows s (takeMove s).2 := by
  obtain ⟨ms, d, h⟩ := takeMove_frame s
  rw [h]
  exact .refl s

/-! ### Every transition -/

/-- The registers that a transition writes beside these operations are no records. -/
theorem Transition.grows {m : Move} {s t : State} (h : Transition m s t) : Grows s t := by
  cases h with
  -- registers only
  | readLoop | rawLoop | classicReset | usbJtagSerialReset | hardReset | customReset | noStep | waitEnd | waitMore
  | tickRead | tickWait | tickIdle | answers | reset | present | codecToken | codecEnd => exact Grows.refl s
  -- a response
  | encodeFrame | decodeFrame | readFast | rawDrain | customInvalid | validate | setFraming | notifyConnect
  | rawDeadline | sequenceEnd => exact grows_respond s _
  -- an event
  | setDTR | setRTS | waitStart | committed => exact grows_record s _
  -- an event and a response
  | readUnreadable | rawUnreadable | flushed | written | writeFailed | commitFailed =>
    exact grows_record_respond s _ _
  | unwritable =>
    obtain ⟨r, hr⟩ := unwritable_eq_respond (s.accept 0x05).askWritable
    rw [hr]
    exact grows_record_respond s _ r
  -- a poll, which may respond
  | readNone | readChunk | rawNone => exact grows_polled s
  | readFrame | readNoFrame | readUnframed | rawChunk => exact grows_polled_respond s _
  -- an action
  | readDeadline => exact grows_issue s _
  | write | commit => exact grows_record_issue s _ _
  | late => exact grows_lateAck _ _ s
  | reserved => exact grows_refuse s

/-- Settles O56: taking the move leaves the records, and every transition only adds to them. -/
theorem recordsOnlyGrow : Obligations.RecordsOnlyGrow :=
  fun s _ hstep => (grows_takeMove s).trans (step_cases hstep).grows

end Sys2Proof.Machine
end

section
/-! PROOF. Operands and capacities (spec/60_exceptions.md R182): an operand beyond a finite capacity faults, and an
unbounded capacity is always kept. -/

namespace Sys2Proof.Machine

theorem within_of_lt {cap : Option Nat} {c k : Nat} (hcap : cap = some c) (hlong : c < k) : within cap k = false := by
  rw [hcap]
  exact decide_eq_false (Nat.not_le.mpr hlong)

/-- READ answers a next state whatever `decode` finds in LEFTOVER. -/
theorem exec_read_answers (timeoutMs minBytes : U32) (s : State) : ∃ t, exec (.read timeoutMs minBytes) s = .next t := by
  by_cases hloop : s.framingEn = false ∨ (slipDecode s.leftover).1 = none
  · exact ⟨_, exec_read_of_no_frame hloop⟩
  · obtain ⟨hframing, hfound⟩ := not_or.mp hloop
    obtain ⟨x, hx⟩ := Option.ne_none_iff_exists'.mp hfound
    exact ⟨_, exec_read_of_frame (Bool.eq_true_of_not_eq_false hframing) (Prod.ext hx rfl)⟩

theorem exec_readRaw_answers (timeoutMs : U32) (s : State) : ∃ t, exec (.readRaw timeoutMs) s = .next t := by
  rw [exec, execReadRaw_eq]
  split
  · exact ⟨_, rfl⟩
  · exact ⟨_, rfl⟩

theorem exec_writeFrame_answers {payload : Bytes} {s : State} (hfits : bufferFits payload s = true) :
    ∃ t, exec (.writeFrame payload) s = .next t := by
  cases hw : s.answers.writable with
  | true => exact ⟨_, exec_writeFrame_writable hfits hw⟩
  | false => exact ⟨_, exec_writeFrame_unwritable hfits hw⟩

theorem exec_customReset_answers {q : Bytes} {s : State} (hfits : sequenceFits q s = true) :
    ∃ t, exec (.customReset q) s = .next t := by
  cases hparse : parse s.params.sArgStrict q with
  | none => exact ⟨_, exec_customReset_invalid hfits hparse⟩
  | some cs => exact ⟨_, exec_customReset_valid hfits hparse⟩

/-- With unbounded capacities no instruction faults and none is refused. -/
theorem exec_answers_of_unbounded (i : Instr) {s : State} (hbuf : s.params.bufCap = none)
    (hseq : s.params.seqMaxLen = none) : ∃ t, exec i s = .next t := by
  have hbuffer (b : Bytes) : bufferFits b s = true := within_of_unbounded hbuf _
  have hsequence (q : Bytes) : sequenceFits q s = true := within_of_unbounded hseq _
  cases i with
  | encodeFrame payload => exact ⟨_, exec_encodeFrame (hbuffer payload)⟩
  | decodeFrame buffer => exact ⟨_, exec_decodeFrame (hbuffer buffer)⟩
  | read timeoutMs minBytes => exact exec_read_answers timeoutMs minBytes s
  | readRaw timeoutMs => exact exec_readRaw_answers timeoutMs s
  | writeFrame payload => exact exec_writeFrame_answers (hbuffer payload)
  | customReset q => exact exec_customReset_answers (hsequence q)
  | validateCustomResetSequence q => exact ⟨_, exec_validate (hsequence q)⟩
  | classicReset | usbJtagSerialReset | hardReset | setFraming | notifyConnect | reserved | setDTR | setRTS | commit
  | wait | slipEnd | escEnd | escEsc | escLone | literal => exact ⟨_, rfl⟩

/-- Settles O24: an instruction that holds an operand to a capacity faults beyond it, and there is no other fault. -/
theorem onlyAFiniteCapacityOverflows : Obligations.OnlyAFiniteCapacityOverflows := by
  refine ⟨fun b s c hcap hlong => ?_, fun q s c hcap hlong => ?_, fun i s => exec_answers_of_unbounded i⟩
  · have hover : bufferFits b s = false := within_of_lt hcap hlong
    exact ⟨orOverflow_of_false hover _, orOverflow_of_false hover _, orOverflow_of_false hover _⟩
  · have hover : sequenceFits q s = false := within_of_lt hcap hlong
    exact ⟨orOverflow_of_false hover _, orOverflow_of_false hover _⟩

end Sys2Proof.Machine
end

section
/-! PROOF. The await states (spec/10_state.md R22, spec/60_exceptions.md R172, spec/70_reset_and_hazards.md R186): a
discarded acknowledgement changes nothing of CORE, nor does any other move but block reset and the awaited
acknowledgement. -/

namespace Sys2Proof.Machine

/-- Taking a move off the schedule changes nothing of CORE. -/
theorem SameCore.of_moves {s t : State} {ms : List Move} (h : SameCore { s with moves := ms } t) : SameCore s t := by
  have hput := congrArg (fun u : State => { u with moves := s.moves }) h
  exact hput

theorem sameCore_lateAck (k : Nat) (r : Ack) (s : State) : SameCore s (lateAck k r s) := by
  rcases lateAck_eq k r s with h | h <;> rw [h] <;> rfl

/-- An acknowledgement that CORE does not await is discarded. -/
theorem moveResult_lateAck {s : State} {k : Nat} (r : Ack) (hlate : ¬ s.state.awaits ∨ k ≠ s.issued) :
    ∃ t, moveResult (.ack k r) s = .next t ∧ SameCore s t :=
  ⟨_, moveResult_of (.late hlate), sameCore_lateAck k r s⟩

/-- No timer runs in an await state (10_state.md R32). -/
theorem tick_transition_of_awaits {s : State} (hs : s.state.awaits) : Transition .tick s s := by
  apply Transition.tickIdle <;> rcases hs with hs | hs | hs <;> simp [hs]

/-- A token of the stand-alone codec changes nothing of CORE. -/
theorem moveResult_codec_sameCore (s : State) : ∃ t, moveResult .codec s = .next t ∧ SameCore s t := by
  cases htoken : slipToken s.codec.input with
  | none => exact ⟨_, moveResult_of (.codecEnd (slipToken_eq_none htoken)), rfl⟩
  | some token => exact ⟨_, moveResult_of (.codecToken htoken), rfl⟩

/-- In an await state every move but block reset, a request and the awaited acknowledgement leaves CORE as it is. -/
theorem moveResult_of_awaits {s : State} {m : Move} (hs : s.state.awaits) (hreset : m ≠ .blockReset)
    (hack : ∀ r, m ≠ .ack s.issued r) (hrequest : ∀ r, m ≠ .request r) :
    ∃ t, moveResult m s = .next t ∧ SameCore s t := by
  cases m with
  | request r => exact absurd rfl (hrequest r)
  | core => exact ⟨_, moveResult_of (.noStep (.inr hs)), rfl⟩
  | tick => exact ⟨_, moveResult_of (tick_transition_of_awaits hs), rfl⟩
  | channel a => exact ⟨_, moveResult_of .answers, rfl⟩
  | ack k r => exact moveResult_lateAck r (.inr fun hk => hack r (by rw [hk]))
  | blockReset => exact absurd rfl hreset
  | present b => exact ⟨_, moveResult_of .present, rfl⟩
  | codec => exact moveResult_codec_sameCore s

theorem ne_idle_of_awaits {c : CoreState} (h : c.awaits) : c ≠ .idle := by
  rcases h with h | h | h <;> simp [h]

/-- Settles O54: what a move leaves of CORE, and the refusal of a request. -/
theorem onlyTheAwaitedAckMovesCore : Obligations.OnlyTheAwaitedAckMovesCore := by
  intro s m ms hmoves
  rw [step_cons hmoves]
  refine ⟨fun hs hreset hack hrequest => ?_, ?_, ?_⟩
  · obtain ⟨t, ht, hsame⟩ := moveResult_of_awaits (s := { s with moves := ms }) hs hreset hack hrequest
    exact ⟨t, ht, hsame.of_moves⟩
  · rintro hs r rfl
    exact moveResult_requestOutsideIdle (s := { s with moves := ms }) (ne_idle_of_awaits hs)
  · rintro k r rfl hlate
    obtain ⟨t, ht, hsame⟩ := moveResult_lateAck (s := { s with moves := ms }) r hlate
    exact ⟨t, ht, hsame.of_moves⟩

end Sys2Proof.Machine
end

section
/-! PROOF. The deadline of READ and READ_RAW (spec/60_exceptions.md R166, spec/70_reset_and_hazards.md R194): while the
deadline has not passed, a poll state answers without a Timeout or stays as it is but for its timer, which no move but a tick
raises (`PollMove`); so TMR_RD is at most the number of ticks so far. -/

namespace Sys2Proof.Machine

/-- READ or READ_RAW polls. -/
abbrev State.polling (s : State) : Prop := s.state = .readPoll ∨ s.state = .rawPoll

/-- `n` more ticks leave the deadline ahead, or there is none. -/
def State.deadlineBeyond (s : State) (n : Nat) : Prop := s.toMs = 0 ∨ s.tmrRd.toNat + n < s.toMs.toNat

/-- How many ticks a move is. -/
def ticksOf (m : Move) : Nat := if m == .tick then 1 else 0

theorem ticksIn_cons {s : State} {m : Move} {ms : List Move} (hmoves : s.moves = m :: ms) (k : Nat) :
    s.ticksIn (k + 1) = (ms.take k).countP (· == .tick) + ticksOf m := by
  rw [State.ticksIn, hmoves, List.take_succ_cons, List.countP_cons, ticksOf]

theorem deadlinePassed_of_deadlineBeyond {s : State} {n : Nat} (h : s.deadlineBeyond n) : deadlinePassed s = false := by
  apply deadlinePassed_eq_false
  rintro ⟨hpos, hle⟩
  rw [BitVec.lt_def] at hpos
  rw [BitVec.le_def] at hle
  rcases h with h | h
  · simp [h] at hpos
  · omega

/-! ### What a poll state can do -/

/-- READ or READ_RAW goes on by the move `m`, and only a tick raises its timer. -/
structure PollsOn (m : Move) (s t : State) : Prop where
  state : t.state = s.state
  responses : t.responses = s.responses
  toMs : t.toMs = s.toMs
  timer : t.tmrRd.toNat ≤ s.tmrRd.toNat + ticksOf m

/-- What a move other than block reset does in a poll state before its deadline. -/
inductive PollMove (m : Move) (s t : State) : Prop
  | goesOn : PollsOn m s t → PollMove m s t
  | answers (r : Response) : t.state = .idle → t.responses = s.responses ++ [r] → r.status = .ok → PollMove m s t

theorem PollsOn.of_eq {m : Move} {s t : State} (hstate : t.state = s.state) (hresponses : t.responses = s.responses)
    (hto : t.toMs = s.toMs) (htimer : t.tmrRd = s.tmrRd) : PollsOn m s t :=
  ⟨hstate, hresponses, hto, by rw [htimer]; exact Nat.le_add_right _ _⟩

theorem pollsOn_tick (s : State) : PollsOn .tick s { s with tmrRd := saturatingSucc s.tmrRd } where
  state := rfl
  responses := rfl
  toMs := rfl
  timer := by
    rw [toNat_saturatingSucc]
    exact Nat.min_le_left _ _

theorem pollsOn_lateAck (k : Nat) (r : Ack) (s : State) : PollsOn (.ack k r) s (lateAck k r s) := by
  rcases lateAck_eq k r s with h | h <;> rw [h] <;> exact .of_eq rfl rfl rfl rfl

/-- The two timeouts are the only answers without the status OK, and the deadline guards both. -/
theorem Transition.pollMove {m : Move} {s t : State} (h : Transition m s t) (hs : s.polling)
    (hd : deadlinePassed s = false) (hm : m ≠ .blockReset) : PollMove m s t := by
  cases h with
  -- it goes on
  | tickRead => exact .goesOn (pollsOn_tick s)
  | late => exact .goesOn (pollsOn_lateAck _ _ s)
  | readNone | readChunk | rawNone | noStep | waitMore | tickIdle | tickWait | answers | present | codecToken | codecEnd =>
    exact .goesOn (.of_eq rfl rfl rfl rfl)
  -- it answers
  | readUnreadable | readFrame | readNoFrame | readUnframed | rawUnreadable | rawChunk => exact .answers _ rfl rfl rfl
  -- its deadline, or block reset
  | readDeadline _ hpassed | rawDeadline _ hpassed => exact absurd hpassed (by simp [hd])
  | reset => exact absurd rfl hm
  -- no transition of another operation, and none of IDLE
  | _ h => exact absurd hs (by simp [State.polling, h])

theorem step_pollMove {s t : State} (hstep : step s = .next t) (hs : s.polling) (hd : deadlinePassed s = false)
    (hm : (takeMove s).1 ≠ .blockReset) : PollMove (takeMove s).1 s t := by
  have htr := step_cases hstep
  obtain ⟨ms, d, htake⟩ := takeMove_frame s
  rw [htake] at htr
  rcases htr.pollMove hs hd hm with ⟨hstate, hresponses, hto, htimer⟩ | ⟨r, hidle, hresponses, hok⟩
  · exact .goesOn ⟨hstate, hresponses, hto, htimer⟩
  · exact .answers r hidle hresponses hok

/-! ### A run before the deadline -/

/-- A step of a run that delivers no response delivers none. -/
theorem step_responses_of_run {k : Nat} {s s' t : State} (hstep : step s = .next s') (hrun : run k s' = .next t)
    (hnone : t.responses = s.responses) : s'.responses = s.responses := by
  obtain ⟨-, hprefix, -⟩ := recordsOnlyGrow s s' hstep
  have hle := run_responses_length_le hrun
  rw [hnone] at hle
  exact (hprefix.eq_of_length_le hle).symm

/-- A step before the deadline uses up one move and its ticks. -/
theorem PollsOn.deadlineBeyond {k : Nat} {s t : State} {m : Move} {ms : List Move} (h : PollsOn m s t)
    (hmoves : s.moves = m :: ms) (ht : t.moves = ms) (hd : s.deadlineBeyond (s.ticksIn (k + 1))) :
    t.deadlineBeyond (t.ticksIn k) := by
  rw [State.deadlineBeyond, ticksIn_cons hmoves] at hd
  rw [State.deadlineBeyond, h.toMs, State.ticksIn, ht]
  have htimer := h.timer
  exact hd.imp_right fun hahead => by omega

/-- After a run without a response and without enough ticks, the operation still polls before its deadline. -/
theorem run_before_deadline {j k : Nat} {s t : State} (hs : s.polling) (hreset : s.noResetFor (k + j))
    (hrun : run k s = .next t) (hnone : t.responses = s.responses) (hd : s.deadlineBeyond (s.ticksIn k)) :
    t.state = s.state ∧ t.noResetFor j ∧ deadlinePassed t = false := by
  induction k generalizing s with
  | zero =>
    cases hrun
    exact ⟨rfl, by rwa [Nat.zero_add] at hreset, deadlinePassed_of_deadlineBeyond hd⟩
  | succ k ih =>
    obtain ⟨s', hstep, hrun'⟩ := run_succ_next hrun
    rw [Nat.add_right_comm] at hreset
    obtain ⟨hm, hreset'⟩ := hreset.step hstep
    have hsame := step_responses_of_run hstep hrun' hnone
    obtain ⟨m, ms, hmoves⟩ : ∃ m ms, s.moves = m :: ms :=
      List.exists_cons_of_length_pos (Nat.lt_of_lt_of_le (Nat.succ_pos _) hreset.1)
    have hmoves' : s'.moves = ms := by rw [(step_cases hstep).moves_eq, takeMove_cons hmoves]
    have hpoll := step_pollMove hstep hs (deadlinePassed_of_deadlineBeyond hd) hm
    rw [takeMove_cons hmoves] at hpoll
    rcases hpoll with hon | ⟨r, _, hr, _⟩
    · have hs' : s'.polling := by rwa [State.polling, hon.state]
      have hd' := hon.deadlineBeyond hmoves hmoves' hd
      rw [← hon.state]
      exact ih hs' hreset' hrun' (hnone.trans hsame.symm) hd'
    · simp [hsame] at hr

/-- A poll before the deadline ends in no Timeout and awaits no flush. -/
theorem PollMove.no_timeout {m : Move} {s t : State} (h : PollMove m s t) (hs : s.polling) :
    t.state ≠ .readFlushAwait ∧ ∀ r, t.responses = s.responses ++ [r] → r.status ≠ .timeout := by
  cases h with
  | goesOn h =>
    refine ⟨?_, fun r hr => ?_⟩
    · rw [h.state]
      rcases hs with hs | hs <;> simp [hs]
    · simp [h.responses] at hr
  | answers r' hidle hr' hok =>
    refine ⟨by simp [hidle], fun r hr => ?_⟩
    obtain rfl : r' = r := by simpa using hr'.symm.trans hr
    simp [hok]

/-- Settles O30: TMR_RD is 0 at first and counts at most the ticks, so the run and its next step come before the deadline. -/
theorem noTimeoutBeforeTheDeadline : Obligations.NoTimeoutBeforeTheDeadline := by
  intro s t u k r hs htimer hreset hrun hnone hticks
  have hd : s.deadlineBeyond (s.ticksIn k) := by simpa [State.deadlineBeyond, htimer] using hticks
  obtain ⟨hstate, hlast, hd'⟩ := run_before_deadline hs hreset hrun hnone hd
  have ht : t.polling := by rwa [State.polling, hstate]
  refine ⟨hstate, fun hstep => ?_⟩
  have hpoll := step_pollMove hstep ht hd' (hlast.step hstep).1
  rw [← hnone]
  exact (hpoll.no_timeout ht).imp_right fun h => h r

end Sys2Proof.Machine
end

section
/-! PROOF. A Wait and block reset (spec/43_reset_sequencer.md R136, spec/70_reset_and_hazards.md R185, R194): in SEQ_WAIT,
before WAIT_N ticks, every move but block reset and a request leaves CORE as it is, except that a tick adds 1 to TMR_W
(`Waiting`); block reset is one transition from every STATE. -/

namespace Sys2Proof.Machine

/-! ### A Wait -/

/-- A Wait of `n` ticks goes on at IDX `i`, and `j` ticks have passed. -/
structure Waiting (n : U32) (i j : Nat) (s : State) : Prop where
  state : s.state = .seqWait
  waitN : s.waitN = n
  idx : s.idx = i
  timer : s.tmrW.toNat = j

section
variable {n : U32} {i j k : Nat} {m : Move} {ms : List Move} {s t : State}

theorem waiting_of_exec_wait {s0 : State} (h : exec (.wait n) s0 = .next s) : Waiting n s.idx 0 s := by
  cases h
  exact ⟨rfl, rfl, rfl, rfl⟩

theorem Waiting.sameCore (h : Waiting n i j s) (hsame : SameCore s t) : Waiting n i j t := by
  rw [← hsame] at h
  exact ⟨h.state, h.waitN, h.idx, h.timer⟩

/-- TMR_W does not saturate below WAIT_N. -/
theorem Waiting.tick (h : Waiting n i j s) (hbefore : j < n.toNat) :
    Waiting n i (j + 1) { s with tmrW := saturatingSucc s.tmrW } where
  state := h.state
  waitN := h.waitN
  idx := h.idx
  timer := by
    have hbound := n.isLt
    rw [toNat_saturatingSucc, h.timer]
    omega

/-- Before its ticks have passed, a Wait goes on by every move that can occur in it. -/
theorem Waiting.moveResult (h : Waiting n i j s) (hbefore : j < n.toNat) (hreset : m ≠ .blockReset)
    (hrequest : ∀ r, m ≠ .request r) : ∃ t, moveResult m s = .next t ∧ Waiting n i (j + ticksOf m) t := by
  have hs := h.state
  cases m with
  | request r => exact absurd rfl (hrequest r)
  | core =>
    have hlt : s.tmrW < s.waitN := by rwa [BitVec.lt_def, h.timer, h.waitN]
    exact ⟨_, moveResult_of (.waitMore hs hlt), h⟩
  | tick => exact ⟨_, moveResult_of (.tickWait hs), h.tick hbefore⟩
  | channel a => exact ⟨_, moveResult_of .answers, h.sameCore rfl⟩
  | ack k r =>
    obtain ⟨t, ht, hsame⟩ := moveResult_lateAck (s := s) (k := k) r (.inl (by simp [hs]))
    exact ⟨t, ht, h.sameCore hsame⟩
  | blockReset => exact absurd rfl hreset
  | present b => exact ⟨_, moveResult_of .present, h.sameCore rfl⟩
  | codec =>
    obtain ⟨t, ht, hsame⟩ := moveResult_codec_sameCore s
    exact ⟨t, ht, h.sameCore hsame⟩

/-- A step of a Wait takes the head of the schedule. -/
theorem Waiting.step (h : Waiting n i j s) (hbefore : j < n.toNat) (hmoves : s.moves = m :: ms)
    (hreset : m ≠ .blockReset) (hrequest : ∀ r, m ≠ .request r) :
    ∃ t, step s = .next t ∧ t.moves = ms ∧ Waiting n i (j + ticksOf m) t := by
  have htaken : Waiting n i j { s with moves := ms } := h.sameCore rfl
  obtain ⟨t, ht, hwaiting⟩ := htaken.moveResult hbefore hreset hrequest
  exact ⟨t, (step_cons hmoves).trans ht, (moveResult_cases ht).moves_eq, hwaiting⟩

theorem State.noResetFor.head (h : s.noResetFor (k + 1)) : ∃ m ms, s.moves = m :: ms ∧ m ≠ .blockReset := by
  obtain ⟨hlength, hreset⟩ := h
  obtain ⟨m, ms, hmoves⟩ := List.exists_cons_of_length_pos (Nat.lt_of_lt_of_le (Nat.succ_pos k) hlength)
  rw [hmoves, List.take_succ_cons] at hreset
  exact ⟨m, ms, hmoves, (List.ne_of_not_mem_cons hreset).symm⟩

theorem noRequestFor_succ_iff (hmoves : s.moves = m :: ms) :
    s.noRequestFor (k + 1) ↔ (∀ r, m ≠ .request r) ∧ ∀ r, .request r ∉ ms.take k := by
  simp [State.noRequestFor, hmoves, eq_comm, forall_and]

/-- A run of a Wait in which too few ticks occur leaves it waiting, and TMR_W counts the ticks. -/
theorem Waiting.run (h : Waiting n i j s) (hreset : s.noResetFor k) (hrequest : s.noRequestFor k)
    (hticks : j + s.ticksIn k < n.toNat) : ∃ t, run k s = .next t ∧ Waiting n i (j + s.ticksIn k) t := by
  induction k generalizing s j with
  | zero => exact ⟨s, run_zero s, h⟩
  | succ k ih =>
    obtain ⟨m, ms, hmoves, hm⟩ := hreset.head
    obtain ⟨hm', hrequest'⟩ := (noRequestFor_succ_iff hmoves).mp hrequest
    obtain ⟨s', hstep, rfl, h'⟩ := h.step (Nat.lt_of_add_right_lt hticks) hmoves hm hm'
    have hsum : j + s.ticksIn (k + 1) = j + ticksOf m + s'.ticksIn k := by
      rw [ticksIn_cons hmoves, State.ticksIn, Nat.add_right_comm, Nat.add_assoc]
    rw [hsum] at hticks ⊢
    obtain ⟨t, hrun, ht⟩ := ih h' (hreset.step hstep).2 hrequest' hticks
    exact ⟨t, run_succ_of hstep hrun, ht⟩

end

/-- Settles O41: a Wait starts with TMR_W = 0, and the run leaves it waiting with its ticks counted. -/
theorem waitLastsAtLeastItsTicks : Obligations.WaitLastsAtLeastItsTicks := by
  intro n s0 s k hexec hreset hrequest hticks
  have hstart := waiting_of_exec_wait hexec
  obtain ⟨t, hrun, hwaiting⟩ := hstart.run hreset hrequest (by rwa [Nat.zero_add])
  exact ⟨t, hrun, hwaiting.state, hwaiting.idx, by rw [hwaiting.timer, Nat.zero_add]⟩

/-! ### Block reset -/

/-- Settles O50: block reset's transition has no guard on STATE. -/
theorem blockResetFromAnyState : Obligations.BlockResetFromAnyState :=
  fun s ms hmoves => ⟨_, step_of_transition hmoves (.reset (s := { s with moves := ms })), rfl⟩

end Sys2Proof.Machine
end

section
/-! PROOF. Codes and strings read back (spec/30_encoding.md sections 1 to 6; spec/43_reset_sequencer.md R146): the code of a
well-formed instruction decodes to it, and a printed list of commands parses to the list. -/

namespace Sys2Proof.Machine

/-! ### One instruction -/

/-- The code of a well-formed command is its token, which is read back. -/
theorem decode_encode_command (strict : Bool) {c : Command} (h : c.wf = true) :
    decode strict (.token (printCommand c)) = .ok c.toInstr :=
  decode_token_of_decodeToken (decodeToken_printCommand strict c h)

/-- A byte that is neither marker nor escape is a SLIP token by itself (30_encoding.md R62). -/
theorem decodeSlip_literal {x : Byte} (hend : x ≠ 0xC0#8) (hesc : x ≠ 0xDB#8) : decodeSlip [x] = .ok (.literal x) := by
  simp [decodeSlip, slipToken, byteEnd, byteEsc, hend, hesc]

/-- Settles O2: the opcodes and the SLIP tokens by evaluation, the DSL tokens as their commands are read back. -/
theorem decodeOfEncodeIsTheInstruction : Obligations.DecodeOfEncodeIsTheInstruction := by
  intro strict i hwf
  cases i with
  | reserved opcode => exact decodeRequest_reserved opcode [] hwf
  | setDTR v => exact decode_encode_command strict (c := .setDTR v) rfl
  | setRTS v => exact decode_encode_command strict (c := .setRTS v) rfl
  | commit => exact decode_encode_command strict (c := .commit) rfl
  | wait n => exact decode_encode_command strict (c := .wait n) hwf
  | literal x =>
    obtain ⟨hend, hesc⟩ : x ≠ 0xC0#8 ∧ x ≠ 0xDB#8 := by simpa [Instr.wf] using hwf
    exact decodeSlip_literal hend hesc
  | encodeFrame | decodeFrame | read | readRaw | writeFrame | classicReset | usbJtagSerialReset | hardReset
  | customReset | validateCustomResetSequence | setFraming | notifyConnect | slipEnd | escEnd | escEsc | escLone => rfl

/-! ### A list of commands -/

/-- The tokens of a printed list are its printed commands: no token holds a bar (30_encoding.md R69, R79). -/
theorem splitBars_print {cs : List Command} (h : cs ≠ []) : splitBars (print cs) = cs.map printCommand := by
  induction cs using print.induct with
  | case1 => exact absurd rfl h
  | case2 c => exact splitBars_of_no_bar _ (bar_not_mem_printCommand c)
  | case3 c c' cs ih => exact (splitBars_append _ _ (bar_not_mem_printCommand c)).trans (congrArg _ (ih (by simp)))

theorem parse_print (strict : Bool) {cs : List Command} (hne : cs ≠ []) (hwf : ∀ c ∈ cs, c.wf = true) :
    parse strict (print cs) = some cs := by
  rw [parse, splitBars_print hne, parseTokens_eq_some_iff, List.forall₂_map_left_iff, List.forall₂_same]
  exact fun c hc => decodeToken_printCommand strict c (hwf c hc)

/-- Settles O3: the printed list is cut into its commands' tokens, and each is read back. -/
theorem parseOfPrintIsTheList : Obligations.ParseOfPrintIsTheList := fun strict _ => parse_print strict

/-! ### The strategies -/

/-- A string parses to the list it is the printed form of. -/
theorem parse_of_print_eq {cs : List Command} {s : Bytes} (hprint : print cs = s) (hne : cs ≠ [])
    (hwf : ∀ c ∈ cs, c.wf = true) (strict : Bool) : parse strict s = some cs := by
  rw [← hprint]
  exact parse_print strict hne hwf

/-- The classic list with a delay, printed with the delay's digits in their place (30_encoding.md R81). -/
theorem print_classicList {d : U32} (hd : d ≠ 0) :
    print (classicList d) = ascii "D0|R1|S|W100|D1|R0|S|W" ++ printU32 d ++ ascii "|D0|S" := by
  have hbefore : ascii "D0|R1|S|W100|D1|R0|S|W" =
      print [.setDTR false, .setRTS true, .commit, .wait 100, .setDTR true, .setRTS false, .commit] ++
        [charBar, charW] := by decide +kernel
  have hafter : ascii "|D0|S" = charBar :: print [.setDTR false, .commit] := by decide +kernel
  rw [classicList_of_ne_zero hd, hbefore, hafter]
  simp [print, printCommand]

/-- Settles O45: each string is the printed form of its list, so it parses to the list. -/
theorem strategyStrings : Obligations.StrategyStrings :=
  ⟨fun _ => print_classicList, fun strict =>
    ⟨parse_of_print_eq (by decide +kernel) (by decide) (classicList_wf 50) strict,
     parse_of_print_eq (by decide +kernel) (by decide) (classicList_wf 0) strict,
     parse_of_print_eq (by decide +kernel) (by decide) usbJtagSerialList_wf strict,
     parse_of_print_eq (by decide +kernel) (by decide) (hardList_wf true) strict,
     parse_of_print_eq (by decide +kernel) (by decide) (hardList_wf false) strict⟩⟩

end Sys2Proof.Machine
end

section
/-! PROOF. Frames in a byte string (spec/40_slip_codec.md R93-R97): an encoded frame decodes to its payload, its markers
stand at its ends, and a marker that closed one frame opens no other. -/

namespace Sys2Proof.Machine

/-- Settles O15: the body has no marker, so the frame ends where it was closed, and unescaping undoes escaping. -/
theorem slipRoundTrip : Obligations.SlipRoundTrip :=
  fun p => ⟨slipDecode_slipEncode p, slipDecode_slipEncode_append p⟩

/-- In a string whose only marker is its last byte, the marker's index is the length of what stands before it. -/
theorem getElem?_append_marker_iff {g : Bytes} (hg : 0xC0#8 ∉ g) (i : Nat) :
    (g ++ [0xC0#8])[i]? = some 0xC0#8 ↔ i = g.length := by
  rcases Nat.lt_trichotomy i g.length with hlt | rfl | hgt
  · rw [List.getElem?_append_left hlt]
    exact iff_of_false (fun h => hg (List.mem_of_getElem? h)) (by omega)
  · simp
  · rw [List.getElem?_eq_none (by rw [List.length_append, List.length_singleton]; omega)]
    exact iff_of_false nofun (by omega)

/-- An encoded frame is marked at index 0, and then only after its escaped payload (40_slip_codec.md R85, R86). -/
theorem getElem?_slipEncode_marker_iff (p : Bytes) (i : Nat) :
    (slipEncode p)[i]? = some 0xC0#8 ↔ i = 0 ∨ i = (slipEncode p).length - 1 := by
  rw [slipEncode_eq]
  cases i with
  | zero => simp
  | succ i =>
    rw [List.getElem?_cons_succ, getElem?_append_marker_iff (end_not_mem_escapeAll p)]
    simp

/-- Settles O16: the escaped payload between the two markers has none. -/
theorem encodedFrameHasMarkersOnlyAtItsEnds : Obligations.EncodedFrameHasMarkersOnlyAtItsEnds :=
  getElem?_slipEncode_marker_iff

/-! ### Bytes before the start marker -/

/-- A buffer that begins with a marker: the frame up to the next one, and what follows it. -/
theorem slipDecode_marker_append {body : Bytes} (h : 0xC0#8 ∉ body) (r : Bytes) :
    slipDecode (0xC0#8 :: (body ++ 0xC0#8 :: r)) = (some (unescape body), r) :=
  slipDecode_of_frame [] body r (by simp) h

/-- A frame is found behind bytes without a marker as it is without them. -/
theorem slipDecode_append_of_frame {g b f r : Bytes} (hg : 0xC0#8 ∉ g) (h : slipDecode (0xC0#8 :: b) = (some f, r)) :
    slipDecode (g ++ 0xC0#8 :: b) = (some f, r) := by
  rcases marker_cases b with hb | ⟨body, rest, rfl, hbody⟩
  · have hopen := slipDecode_of_open_frame [] b (by simp) hb
    rw [List.nil_append, h] at hopen
    cases hopen
  · rw [slipDecode_of_frame g body rest hg hbody, ← h]
    exact (slipDecode_marker_append hbody rest).symm

/-- Bytes without a marker add no frame to a buffer that has none. -/
theorem slipDecode_append_of_none {g b : Bytes} (hg : 0xC0#8 ∉ g) (h : (slipDecode b).1 = none) :
    slipDecode (g ++ b) = (none, g ++ b) := by
  apply slipDecode_none
  rw [slipDecode_fst_eq_none_iff] at h ⊢
  simpa [List.count_eq_zero_of_not_mem hg] using h

/-- Settles O17: the two cases of the decode without `g`, and the spec's two buffers by evaluation. -/
theorem bytesBeforeTheStartMarker : Obligations.BytesBeforeTheStartMarker :=
  ⟨fun _ _ hg => ⟨fun _ _ => slipDecode_append_of_frame hg, slipDecode_append_of_none hg⟩, by decide, by decide⟩

/-! ### Delimiters -/

/-- Settles O18: each decode takes the two first markers of its buffer, and needs two. -/
theorem delimitersAreNotShared : Obligations.DelimitersAreNotShared := by
  have hempty (r : Bytes) : slipDecode (0xC0#8 :: 0xC0#8 :: r) = (some [], r) :=
    slipDecode_marker_append (body := []) (by simp) r
  refine ⟨hempty, fun b1 b2 b3 h1 h2 h3 => ⟨?_, ?_, ?_, ?_⟩,
    fun p1 p2 => ⟨slipDecode_slipEncode_append p1 _, slipDecode_slipEncode p2⟩⟩
  · simpa using slipDecode_marker_append h1 (b2 ++ [0xC0#8])
  · exact slipDecode_of_open_frame b2 [] h2 (by simp)
  · simpa using slipDecode_of_frame b2 b3 [] h2 h3
  · exact hempty (b2 ++ [0xC0#8])

end Sys2Proof.Machine
end

section
/-! PROOF. The SLIP tokens' meanings on the stand-alone codec (spec/40_slip_codec.md R88, R89; log 14): what each token does,
and what a run of the tokens of a byte string comes to. Between two markers the tokens push exactly the unescaped bytes. -/

namespace Sys2Proof.Machine

/-! ### One token -/

theorem mark_outside {c : Codec} (h : c.inFrame = false) : c.mark = { c with inFrame := true, body := [] } := by
  simp [Codec.mark, h]

theorem mark_inside {c : Codec} (h : c.inFrame = true) :
    c.mark = { c with inFrame := false, body := [], frames := c.frames ++ [c.body] } := by
  simp [Codec.mark, h]

theorem push_outside {c : Codec} (h : c.inFrame = false) (x : Byte) : c.push x = c := by
  simp [Codec.push, h]

theorem push_inside {c : Codec} (h : c.inFrame = true) (x : Byte) : c.push x = { c with body := c.body ++ [x] } := by
  simp [Codec.push, h]

theorem exec_slipEnd (s : State) : exec .slipEnd s = .next { s with codec := s.codec.mark } := rfl
theorem exec_escEnd (s : State) : exec .escEnd s = .next { s with codec := s.codec.push 0xC0 } := rfl
theorem exec_escEsc (s : State) : exec .escEsc s = .next { s with codec := s.codec.push 0xDB } := rfl
theorem exec_escLone (s : State) : exec .escLone s = .next { s with codec := s.codec.push 0xDB } := rfl
theorem exec_literal (x : Byte) (s : State) : exec (.literal x) s = .next { s with codec := s.codec.push x } := rfl

/-- Settles O21: END marks the codec and every other token pushes one byte, outside a frame and inside. -/
theorem slipTokensComplete : Obligations.SlipTokensComplete := by
  intro s
  simp only [exec_slipEnd, exec_escEnd, exec_escEsc, exec_escLone, exec_literal]
  refine ⟨fun hout => ?_, fun hin => ?_⟩
  · simp only [mark_outside hout, push_outside hout, implies_true, and_self]
  · simp only [mark_inside hin, push_inside hin, implies_true, and_self]

/-- A marker is a token, whatever follows it. -/
theorem slipToken_marker (rest : Bytes) : slipToken (0xC0#8 :: rest) = some (.slipEnd, rest) := rfl

/-- An escape pair is one token, which pushes the byte the pair stands for. -/
theorem slipToken_pair {b c x : Byte} {rest : Bytes} (hpair : OpensPair b (c :: rest))
    (hx : unescape (b :: c :: rest) = x :: unescape rest) (tail : Bytes) :
    ∃ i, slipToken (b :: c :: tail) = some (i, tail) ∧ ∀ codec, tokenCodec i codec = codec.push x := by
  obtain ⟨rfl, hc | hc⟩ := hpair <;> cases hc <;> cases hx
  · exact ⟨.escEnd, rfl, fun _ => rfl⟩
  · exact ⟨.escEsc, rfl, fun _ => rfl⟩

/-- A byte that is no marker and opens no pair is one token, which pushes the byte itself. -/
theorem slipToken_lone {b : Byte} {rest : Bytes} (hb : b ≠ 0xC0#8) (hlone : ¬ OpensPair b rest) :
    ∃ i, slipToken (b :: rest) = some (i, rest) ∧ ∀ codec, tokenCodec i codec = codec.push b := by
  by_cases hesc : b = 0xDB#8
  · subst hesc
    refine ⟨.escLone, ?_, fun _ => rfl⟩
    cases rest with
    | nil => rfl
    | cons c cs =>
      have hc : c ≠ 0xDC#8 ∧ c ≠ 0xDD#8 := by simpa [OpensPair] using hlone
      simp [slipToken, byteEnd, byteEsc, byteEscEnd, byteEscEsc, hc]
  · exact ⟨.literal b, by simp [slipToken, byteEnd, byteEsc, hb, hesc], fun _ => rfl⟩

/-- A token is at least one byte long. -/
theorem slipToken_cons (b : Byte) (bs : Bytes) :
    ∃ i rest, slipToken (b :: bs) = some (i, rest) ∧ rest.length ≤ bs.length := by
  cases bs with
  | nil =>
    simp only [slipToken]
    split_ifs <;> exact ⟨_, _, rfl, Nat.le_refl _⟩
  | cons c cs =>
    simp only [slipToken]
    split_ifs <;> exact ⟨_, _, rfl, by simp⟩

/-! ### A run of tokens -/

@[simp] theorem runTokens_nil (fuel : Nat) (s : State) : runTokens fuel [] s = .next s := by
  cases fuel <;> rfl

/-- A run does its first token and goes on. -/
theorem runTokens_succ {b rest : Bytes} {i : Instr} (h : slipToken b = some (i, rest)) (fuel : Nat) (s : State) :
    runTokens (fuel + 1) b s = runTokens fuel rest { s with codec := tokenCodec i s.codec } := by
  simp only [runTokens, h, exec_slipToken h]

/-- Two runs with enough fuel are the same. -/
theorem runTokens_fuel {k l : Nat} {b : Bytes} (hk : b.length ≤ k) (hl : b.length ≤ l) (s : State) :
    runTokens k b s = runTokens l b s := by
  induction k generalizing l b s with
  | zero =>
    obtain rfl : b = [] := List.length_eq_zero_iff.mp (Nat.le_zero.mp hk)
    simp
  | succ k ih =>
    cases b with
    | nil => simp
    | cons x xs =>
      obtain ⟨l, rfl⟩ : ∃ l', l = l' + 1 := ⟨l - 1, by rw [List.length_cons] at hl; omega⟩
      obtain ⟨i, rest, htoken, hrest⟩ := slipToken_cons x xs
      rw [runTokens_succ htoken, runTokens_succ htoken]
      exact ih (hrest.trans (Nat.le_of_succ_le_succ hk)) (hrest.trans (Nat.le_of_succ_le_succ hl)) _

/-- Run every SLIP token of `b`: the bytes are fuel enough. -/
def runAllTokens (b : Bytes) (s : State) : Result := runTokens b.length b s

theorem runAllTokens_nil (s : State) : runAllTokens [] s = .next s := rfl

theorem runAllTokens_token {b rest : Bytes} {i : Instr} (h : slipToken b = some (i, rest)) (s : State) :
    runAllTokens b s = runAllTokens rest { s with codec := tokenCodec i s.codec } := by
  cases b with
  | nil => cases h
  | cons x xs =>
    obtain ⟨i', rest', htoken, hle⟩ := slipToken_cons x xs
    rw [h] at htoken
    cases htoken
    exact (runTokens_succ h xs.length s).trans (runTokens_fuel hle (Nat.le_refl _) _)

theorem runAllTokens_marker (rest : Bytes) (s : State) :
    runAllTokens (0xC0#8 :: rest) s = runAllTokens rest { s with codec := s.codec.mark } :=
  runAllTokens_token (slipToken_marker rest) s

/-! ### A run up to the next marker -/

/-- Push the bytes of a list, one after another. -/
def Codec.pushAll (c : Codec) (xs : Bytes) : Codec := xs.foldl Codec.push c

theorem pushAll_outside {c : Codec} (h : c.inFrame = false) (xs : Bytes) : c.pushAll xs = c := by
  induction xs with
  | nil => rfl
  | cons x xs ih => rw [Codec.pushAll, List.foldl_cons, push_outside h]; exact ih

theorem pushAll_inside {c : Codec} (h : c.inFrame = true) (xs : Bytes) :
    c.pushAll xs = { c with body := c.body ++ xs } := by
  induction xs generalizing c with
  | nil => simp [Codec.pushAll]
  | cons x xs ih =>
    calc c.pushAll (x :: xs) = (c.push x).pushAll xs := rfl
      _ = { c with body := c.body ++ [x] }.pushAll xs := by rw [push_inside h]
      _ = { c with body := c.body ++ [x] ++ xs } := ih (c := { c with body := c.body ++ [x] }) h
      _ = { c with body := c.body ++ x :: xs } := by rw [List.append_assoc, List.singleton_append]

/-- Bytes without a marker push what they unescape to, when no pair reaches into what follows them (40_slip_codec.md R89). -/
theorem runAllTokens_append {body tail : Bytes} (hbody : 0xC0#8 ∉ body) (htail : ¬ OpensPair 0xDB#8 tail) (s : State) :
    runAllTokens (body ++ tail) s = runAllTokens tail { s with codec := s.codec.pushAll (unescape body) } := by
  induction body using unescape_induction generalizing s with
  | nil => rfl
  | pair b c rest x hpair hx ih =>
    obtain ⟨i, htoken, hpush⟩ := slipToken_pair hpair hx (rest ++ tail)
    rw [List.cons_append, List.cons_append, runAllTokens_token htoken, hpush, ih fun h => hbody (by simp [h]), hx]
    rfl
  | lone b rest hlone hx ih =>
    have hb : b ≠ 0xC0#8 := fun h => hbody (by simp [h])
    have hlone' : ¬ OpensPair b (rest ++ tail) := by
      cases rest with
      | nil => exact fun h => htail ⟨rfl, h.2⟩
      | cons c cs => exact hlone
    obtain ⟨i, htoken, hpush⟩ := slipToken_lone hb hlone'
    rw [List.cons_append, runAllTokens_token htoken, hpush, ih fun h => hbody (by simp [h]), hx]
    rfl

/-- A marker ends a pair that has not been completed: a 0xDB before it stands alone. -/
theorem not_opensPair_marker (rest : Bytes) : ¬ OpensPair 0xDB#8 (0xC0#8 :: rest) := by simp [OpensPair]

theorem not_opensPair_nil : ¬ OpensPair 0xDB#8 [] := by simp [OpensPair]

/-- Outside a frame, bytes without a marker are dropped (40_slip_codec.md R94). -/
theorem runAllTokens_outside {g tail : Bytes} (hg : 0xC0#8 ∉ g) (htail : ¬ OpensPair 0xDB#8 tail) {s : State}
    (hs : s.codec.inFrame = false) : runAllTokens (g ++ tail) s = runAllTokens tail s := by
  rw [runAllTokens_append hg htail, pushAll_outside hs]

/-- From outside a frame, the bytes up to a start marker and those after it, up to the next marker, leave the frame open with
its unescaped bytes. -/
theorem runAllTokens_open {g body tail : Bytes} (hg : 0xC0#8 ∉ g) (hbody : 0xC0#8 ∉ body) (htail : ¬ OpensPair 0xDB#8 tail)
    {s : State} (hs : s.codec.inFrame = false) :
    runAllTokens (g ++ 0xC0#8 :: (body ++ tail)) s =
      runAllTokens tail { s with codec := { s.codec with inFrame := true, body := unescape body } } := by
  rw [runAllTokens_outside hg (not_opensPair_marker _) hs, runAllTokens_marker, runAllTokens_append hbody htail,
    mark_outside hs, pushAll_inside rfl, List.nil_append]

/-- Settles O20: by the cases of a decode. The tokens up to the end marker open the frame, push its unescaped bytes and close
it; without an end marker they leave it open, and without any marker they change nothing. -/
theorem tokenMeaningsRefineDecode : Obligations.TokenMeaningsRefineDecode := by
  intro b s hs
  change (∀ f r, _ → runAllTokens b s = runAllTokens r _) ∧ (_ → ∃ c, runAllTokens b s = _ ∧ _)
  rcases slipDecode_cases b with ⟨h, hb⟩ | ⟨h, g, r, rfl, hg, hr⟩ | ⟨g, body, r, rfl, hg, hbody, h⟩ <;> rw [h]
  · have hrun := runAllTokens_outside hb not_opensPair_nil hs
    rw [List.append_nil, runAllTokens_nil] at hrun
    exact ⟨nofun, fun _ => ⟨s.codec, hrun, rfl⟩⟩
  · have hrun := runAllTokens_open hg hr not_opensPair_nil hs
    rw [List.append_nil, runAllTokens_nil] at hrun
    exact ⟨nofun, fun _ => ⟨_, hrun, rfl⟩⟩
  · refine ⟨fun f r' hframe => ?_, nofun⟩
    cases hframe
    rw [runAllTokens_open hg hbody (not_opensPair_marker r) hs, runAllTokens_marker, mark_inside rfl, ← hs]

end Sys2Proof.Machine
end

section
/-! PROOF. Reset (spec/10_state.md R40). -/

namespace Sys2Proof.Machine

/-- Settles O49: one field of `State.reset` after another. -/
theorem resetLeavesTheStatedValues : Obligations.ResetLeavesTheStatedValues :=
  ⟨rfl, rfl, rfl, rfl, rfl, rfl, rfl, rfl, rfl, rfl, rfl⟩

/-- Settles O58: reset is in IDLE with the buffers and the sequence empty. -/
theorem resetMeetsTheInvariant : Obligations.ResetMeetsTheInvariant :=
  .of (c := .idle) rfl ⟨rfl, Nat.le_refl 0, by simp [State.reset]⟩ rfl rfl

end Sys2Proof.Machine
end
